-- ==== Sys2Proof/Word.lean ====
section
/-! DEFINITION. The configuration record of the fixed parameters (spec/00_scope.md R7), the types whose widths it gives
(R7, R9, R11), and which processor decodes a word (spec/30_encoding.md R91). -/

namespace Sys2Proof

/-- The fixed parameters of R7, in the order of its table. -/
structure Parameters where
  wordBits : Nat
  addrBits : Nat
  memWords : Nat
  dpStackDepth : Nat
  maxVec : Nat
  coordBits : Nat
  intensityMax : Nat
  scaleTable : List Rat
  brightFloor : Rat
  dpPcReset : Nat
  asmOrigin : Nat
  deriving DecidableEq, Repr

namespace Config

/-- The values of R7, written here and nowhere else. Types and definitions take a width or a bound from here by
`reduceProj%` and `delta%`, which put the number itself in its place. -/
def params : Parameters where
  wordBits := 16
  addrBits := 12
  memWords := 4096
  dpStackDepth := 16
  maxVec := 32768
  coordBits := 10
  intensityMax := 7
  scaleTable := [1 / 4, 1 / 2, 1, 2]
  brightFloor := 1 / 20
  dpPcReset := 0x100
  asmOrigin := 0x050

/-- `WORD_BITS` (R7). -/
def wordBits : Nat := reduceProj% (delta% params).wordBits

/-- `ADDR_BITS` (R7). -/
def addrBits : Nat := reduceProj% (delta% params).addrBits

/-- `COORD_BITS` (R7). -/
def coordBits : Nat := reduceProj% (delta% params).coordBits

end Config

/-- One byte of the stored form of Memory. The machine itself has no byte (R62, R64): see log entry 1. -/
abbrev Byte := BitVec 8

/-- A Word: unsigned `WORD_BITS` = 16 bits, the width of AC, IR and of a Memory word (R7, R11). -/
abbrev Word := BitVec (delta% Config.wordBits)

/-- An Address: `ADDR_BITS` = 12 bits, the width of PC and DP.PC (R7, R11). -/
abbrev Addr := BitVec (delta% Config.addrBits)

/-- A beam coordinate: `COORD_BITS` = 10 bits, 0..1023 (R7, R29). -/
abbrev Coord := BitVec (delta% Config.coordBits)

/-- The Intensity, 0..7 (R32). -/
abbrev Level := BitVec 3

/-- The selector of a Scale value, 0..3 (R33). -/
abbrev ScaleSel := BitVec 2

/-- The two processors. Which of them fetched a word selects the decoder; the word carries no tag (R91). -/
inductive Processor where
  | mp
  | dp
  deriving DecidableEq, Repr, Inhabited

end Sys2Proof
end

