-- ==== Sys2Proof/Syntax.lean ====
section
/-! DEFINITION. The instructions of both processors: one constructor for each row of spec/opcode_table.json, its
arguments the bits of the word that the instruction examines (spec/30_encoding.md R92 to R102). Bits that no
instruction examines (R111) are no arguments. -/

namespace Sys2Proof

/-- The 22 MP rows and the 20 DP rows of the opcode table. A memory-reference instruction carries `ea0`, all twelve
bits of the operand field: its top bit IS the indirect flag, and the overlap is the spec's (R92, R143). -/
inductive Instr where
  -- MP, memory reference and literal (R160 to R170)
  | nop
  | law (neg : Bool) (lit : BitVec 11)
  | jmp (ea0 : Addr)
  | dac (ea0 : Addr)
  | xam (ea0 : Addr)
  | isz (ea0 : Addr)
  | add (ea0 : Addr)
  | and (ea0 : Addr)
  | lda (ea0 : Addr)
  | jms (ea0 : Addr)
  -- MP, skip test, inclusive or, rotates (R190, R170, R195, R196)
  | skp (inv dph key zlk pac zac : Bool)
  | ior (ea0 : Addr)
  | ral (n : BitVec 8)
  | rar (n : BitVec 8)
  -- MP, I/O transfer: the arguments are function bits 0, 1, 2 in that order (R97, R214 to R231)
  | iotKbd (read clear test : Bool)
  | iotDpc (toggle start stop : Bool)
  | iotTty
  | iotLpn (readX readY test : Bool)
  | iotCyc
  | iotNone (dev : BitVec 6)
  -- MP, operate group: bits 10 down to 2 (R96, R240, R244)
  | hlt
  | opr (cla cll cma cml iac stl xda rl1 rr1 : Bool)
  -- DP (R101, R276 to R281, R300 to R313)
  | dintp (val : Level)
  | dnop (addr : Addr)
  | dlxa (addr : Addr)
  | dlya (addr : Addr)
  | dsvec (sx : Bool) (dx : BitVec 5) (sy : Bool) (dy : BitVec 5)
  | dlvec (sx : Bool) (dx : BitVec 5) (sy : Bool) (dy : BitVec 5)
  | djmp (addr : Addr)
  | djms (addr : Addr)
  | dpt
  | dint7 (val : Level)
  | dnop7
  | drtn8
  | dhlt8
  | dint (val : Level)
  | dscl (sel : ScaleSel)
  | dret
  | dlxb (addr : Addr)
  | dlyb (addr : Addr)
  | dsxy (x y : BitVec 5)
  | dhlt
  deriving DecidableEq, Repr

/-- The processor whose instruction set an instruction belongs to: the `unit` of its row (R91, R113). -/
def Instr.unit : Instr → Processor
  | .nop | .law .. | .jmp .. | .dac .. | .xam .. | .isz .. | .add .. | .and .. | .lda .. | .jms .. => .mp
  | .skp .. | .ior .. | .ral .. | .rar .. => .mp
  | .iotKbd .. | .iotDpc .. | .iotTty | .iotLpn .. | .iotCyc | .iotNone .. | .hlt | .opr .. => .mp
  | .dintp .. | .dnop .. | .dlxa .. | .dlya .. | .dsvec .. | .dlvec .. | .djmp .. | .djms .. => .dp
  | .dpt | .dint7 .. | .dnop7 | .drtn8 | .dhlt8 | .dint .. | .dscl .. | .dret => .dp
  | .dlxb .. | .dlyb .. | .dsxy .. | .dhlt => .dp

end Sys2Proof
end

