-- ==== Sys2Proof/Decode.lean ====
section
/-! DEFINITION. The two decoders (spec/30_encoding.md R90 to R113) and, after them, the encoder written from the same
format tables. Every instruction is exactly one word (R90). A decoder answers `none` for a word that no row takes;
R110 says there is no such word on either processor. -/

namespace Sys2Proof

/-- `w[lo+n-1:lo]` (R9). -/
def field (w : Word) (lo n : Nat) : BitVec n := w.extractLsb' lo n

/-- `w[i]` (R9). -/
def bit (w : Word) (i : Nat) : Bool := w.getLsbD i

/-- IOT: the device code `w[11:6]` is compared for equality, the first function bit is `w[0]` (R94, R97, R210). -/
def decodeIot (w : Word) : Instr :=
  match (field w 6 6).toNat with
  | 0x01 => .iotKbd (bit w 0) (bit w 1) (bit w 2)
  | 0x02 => .iotDpc (bit w 0) (bit w 1) (bit w 2)
  | 0x04 => .iotTty
  | 0x10 => .iotLpn (bit w 0) (bit w 1) (bit w 2)
  | 0x20 => .iotCyc
  | _ => .iotNone (field w 6 6)

/-- OPR: bit 11 is HLT and suppresses the nine micro-ops of bits 10 to 2 (R96, R240, R244). -/
def decodeOpr (w : Word) : Instr :=
  if bit w 11 then .hlt
  else .opr (bit w 10) (bit w 9) (bit w 8) (bit w 7) (bit w 6) (bit w 5) (bit w 4) (bit w 3) (bit w 2)

/-- The MP opcode map (R92 to R97). -/
def decodeMp (w : Word) : Option Instr :=
  match (field w 12 4).toNat with
  | 0x0 => some .nop
  | 0x1 => some (.law (bit w 11) (field w 0 11))
  | 0x2 => some (.jmp (field w 0 12))
  | 0x3 => some (.dac (field w 0 12))
  | 0x4 => some (.xam (field w 0 12))
  | 0x5 => some (.isz (field w 0 12))
  | 0x6 => some (.add (field w 0 12))
  | 0x7 => some (.and (field w 0 12))
  | 0x8 => some (.lda (field w 0 12))
  | 0x9 => some (.jms (field w 0 12))
  | 0xA => some (.skp (bit w 5) (bit w 4) (bit w 3) (bit w 2) (bit w 1) (bit w 0))
  | 0xB => some (.ior (field w 0 12))
  | 0xC => some (.ral (field w 0 8))
  | 0xD => some (.rar (field w 0 8))
  | 0xE => some (decodeIot w)
  | 0xF => some (decodeOpr w)
  | _ => none

/-- DP op 0x0: the whole word is compared with the range 0x0E00..0x0E07 (R100, R300, R301; 90_conflicts C4). -/
def decodeDpZero (w : Word) : Instr :=
  if field w 3 13 = 0x1C0#13 then .dintp (field w 0 3) else .dnop (field w 0 12)

/-- DP op 0x7: bit 11 has priority over bit 4 (R308, R309, R310). -/
def decodeDpSeven (w : Word) : Instr :=
  if bit w 11 then .dpt else if bit w 4 then .dint7 (field w 0 3) else .dnop7

/-- The DP opcode map (R100 to R102). -/
def decodeDp (w : Word) : Option Instr :=
  match (field w 12 4).toNat with
  | 0x0 => some (decodeDpZero w)
  | 0x1 => some (.dlxa (field w 0 12))
  | 0x2 => some (.dlya (field w 0 12))
  | 0x3 => some (.dsvec (bit w 11) (field w 6 5) (bit w 5) (field w 0 5))
  | 0x4 => some (.dlvec (bit w 11) (field w 6 5) (bit w 5) (field w 0 5))
  | 0x5 => some (.djmp (field w 0 12))
  | 0x6 => some (.djms (field w 0 12))
  | 0x7 => some (decodeDpSeven w)
  | 0x8 => some (if bit w 11 then .drtn8 else .dhlt8)
  | 0x9 => some (.dint (field w 0 3))
  | 0xA => some (.dscl (field w 0 2))
  | 0xB => some .dret
  | 0xC => some (.dlxb (field w 0 12))
  | 0xD => some (.dlyb (field w 0 12))
  | 0xE => some (.dsxy (field w 6 5) (field w 0 5))
  | 0xF => some .dhlt
  | _ => none

/-- The decoder of the processor that fetched the word (R91). -/
def decode : Processor → Word → Option Instr
  | .mp, w => decodeMp w
  | .dp, w => decodeDp w

/-- One bit of an encoded word. -/
def flag (b : Bool) : BitVec 1 := BitVec.ofBool b

/-- The word of an instruction, every bit that the instruction does not examine 0 (R92 to R102). -/
def encode : Instr → Word
  | .nop => 0x0000#16
  | .law neg lit => 0x1#4 ++ flag neg ++ lit
  | .jmp ea0 => 0x2#4 ++ ea0
  | .dac ea0 => 0x3#4 ++ ea0
  | .xam ea0 => 0x4#4 ++ ea0
  | .isz ea0 => 0x5#4 ++ ea0
  | .add ea0 => 0x6#4 ++ ea0
  | .and ea0 => 0x7#4 ++ ea0
  | .lda ea0 => 0x8#4 ++ ea0
  | .jms ea0 => 0x9#4 ++ ea0
  | .skp inv dph key zlk pac zac =>
      0xA#4 ++ 0#6 ++ flag inv ++ flag dph ++ flag key ++ flag zlk ++ flag pac ++ flag zac
  | .ior ea0 => 0xB#4 ++ ea0
  | .ral n => 0xC#4 ++ 0#4 ++ n
  | .rar n => 0xD#4 ++ 0#4 ++ n
  | .iotKbd read clear test => 0xE#4 ++ 0x01#6 ++ 0#3 ++ flag test ++ flag clear ++ flag read
  | .iotDpc toggle start stop => 0xE#4 ++ 0x02#6 ++ 0#3 ++ flag stop ++ flag start ++ flag toggle
  | .iotTty => 0xE100#16
  | .iotLpn readX readY test => 0xE#4 ++ 0x10#6 ++ 0#3 ++ flag test ++ flag readY ++ flag readX
  | .iotCyc => 0xE800#16
  | .iotNone dev => 0xE#4 ++ dev ++ 0#6
  | .hlt => 0xF800#16
  | .opr cla cll cma cml iac stl xda rl1 rr1 =>
      0x1E#5 ++ flag cla ++ flag cll ++ flag cma ++ flag cml ++ flag iac ++ flag stl ++ flag xda ++ flag rl1 ++
        flag rr1 ++ 0#2
  | .dintp val => 0x1C0#13 ++ val
  | .dnop addr => 0x0#4 ++ addr
  | .dlxa addr => 0x1#4 ++ addr
  | .dlya addr => 0x2#4 ++ addr
  | .dsvec sx dx sy dy => 0x3#4 ++ flag sx ++ dx ++ flag sy ++ dy
  | .dlvec sx dx sy dy => 0x4#4 ++ flag sx ++ dx ++ flag sy ++ dy
  | .djmp addr => 0x5#4 ++ addr
  | .djms addr => 0x6#4 ++ addr
  | .dpt => 0x7800#16
  | .dint7 val => 0x7#4 ++ 0#7 ++ 1#1 ++ 0#1 ++ val
  | .dnop7 => 0x7000#16
  | .drtn8 => 0x8800#16
  | .dhlt8 => 0x8000#16
  | .dint val => 0x9#4 ++ 0#9 ++ val
  | .dscl sel => 0xA#4 ++ 0#10 ++ sel
  | .dret => 0xB000#16
  | .dlxb addr => 0xC#4 ++ addr
  | .dlyb addr => 0xD#4 ++ addr
  | .dsxy x y => 0xE#4 ++ 0#1 ++ x ++ 0#1 ++ y
  | .dhlt => 0xF000#16

/-- The instruction of an opcode-table word (the host's question). A word alone does not say which processor
fetched it (R91): this reads it as the MP, whose step `State.withFetchWord` sets up (log entry 6). -/
def decodeTableWord (nbits w : Nat) : Option Instr :=
  if nbits ≤ 16 ∧ w < 2 ^ nbits then decodeMp (BitVec.ofNat 16 w) else none

end Sys2Proof
end

