-- ==== Sys2Proof/Config.lean ====
section
/-! DEFINITION. What is fixed for the machine: the parameters of spec/00_scope.md R7 under their names (values and widths
in `Config.params`, Word.lean), the reset record of
spec/70_reset_and_hazards.md R382, the driver's operations of R13, and the free values that the spec leaves
to the outside: the first content of Memory, the driver's schedule, the text of a halt diagnostic (R8), and the part of
the assembler's table that no source gives (R127). -/

namespace Sys2Proof

/-- The operations through which the block is driven, one atomic transition each (R13, R70). Arguments are the
host's numbers, of any size: the operation masks them (R352, R353, R354). -/
inductive DriverOp where
  | reset
  | powerOn
  | mpStep
  | dpStep
  | dlClear
  | setKeyboard (v : Nat)
  | setLightPen (x y : Nat) (hit : Bool)
  | peek (a : Nat)
  | poke (a v : Nat)
  | readDisplayList
  | readConsole
  deriving DecidableEq, Repr, Inhabited

/-- The fields of `RESET` (R382): one for every register whose value after `reset()` no source gives.
`DP_SP` has no field here: R382 tells a model to fix it at 0. -/
structure ResetRecord where
  mpPc : Addr
  mpAc : Word
  mpIr : Word
  mpLink : Bool
  mpHalt : Bool
  mpRun : Bool
  dpAc : Word
  dpX : Coord
  dpY : Coord
  dpHalt : Bool
  dpEnabled : Bool
  dpIntensity : Level
  dpScaleSel : ScaleSel
  deriving DecidableEq, Repr

namespace Config

/-- `MEM_WORDS` (R7). -/
def memWords : Nat := reduceProj% (delta% params).memWords

/-- Stored bytes of Memory: two for each word (log entry 1). -/
def memBytes : Nat := 2 * (delta% memWords)

/-- `DP_STACK_DEPTH` (R7, R34). -/
def dpStackDepth : Nat := reduceProj% (delta% params).dpStackDepth

/-- `MAX_VEC` (R7, R36). -/
def maxVec : Nat := reduceProj% (delta% params).maxVec

/-- `INTENSITY_MAX` (R7). -/
def intensityMax : Nat := reduceProj% (delta% params).intensityMax

/-- `SCALE_TABLE`: 1/4, 1/2, 1, 2 at index 0, 1, 2, 3 (R7, R312). -/
def scaleTable : List Rat := reduceProj% (delta% params).scaleTable

/-- `BRIGHT_FLOOR` (R7, R320). -/
def brightFloor : Rat := reduceProj% (delta% params).brightFloor

/-- `DP_PC_RESET` (R7, R27). -/
def dpPcReset : Addr := BitVec.ofNat _ (reduceProj% (delta% params).dpPcReset)

/-- `ASM_ORIGIN` (R7), the assembler's default origin. -/
def asmOrigin : Addr := BitVec.ofNat _ (reduceProj% (delta% params).asmOrigin)

/-- The reset record used by the model's own `reset()` and `powerOn()`: the values R382 suggests.
DESIGN CHOICE, log entry 2: no source supports one of them, so a proof that rests on one is unsafe. -/
def resetValues : ResetRecord where
  mpPc := asmOrigin
  mpAc := 0
  mpIr := 0
  mpLink := false
  mpHalt := false
  mpRun := false
  dpAc := 0
  dpX := 0
  dpY := 0
  dpHalt := true
  dpEnabled := true
  dpIntensity := 7
  dpScaleSel := 2

/-- `MEM_INIT` (R8, R385): what each Memory word holds before anything writes it. A FREE VALUE, log entry 3:
nothing may be assumed of it (U11), and reading it is no fault. -/
opaque memInit : Addr → Word

/-- The driver's choice of its `n`-th operation, where the pending calls in State do not fix it. A FREE VALUE,
log entry 4: the schedule between MP, DP and host is free (R351, R358). -/
opaque driver : Nat → DriverOp

/-- `HALT_DIAG_FORMAT` (R8, R245): the text of the halt diagnostic for a PC and an AC. A FREE VALUE, log entry 5. -/
opaque haltDiagFormat : Addr → Word → List Char

/-- The assembler's mnemonic table but for its four known entries, by upper-cased name: the base pattern, and whether an
operand is taken (R127; 91_not_in_source N6). A FREE VALUE, log entry 13. -/
opaque asmTable : List Char → Option (Word × Bool)

/-- What an operand that the text leaves out resolves to (R121 gives no form without it). A FREE VALUE, log entry 13. -/
opaque asmMissing : Nat

end Config

end Sys2Proof
end

