-- ==== Sys2Proof/Machine/State.lean ====
section
/-! DEFINITION. The state of the Machine (spec/10_state.md R20 to R40), the reasons a step can stop, and the state
right after reset. -/

namespace Sys2Proof.Machine

/-- Memory (R35, R60): the stored bytes that something has written, as (byte address, byte) pairs. Word address `a`
is stored at byte addresses `2 a` (bits 7:0) and `2 a + 1` (bits 15:8); log entry 1. -/
abbrev Memory := List Host.Cell

/-- One DisplayList entry (R321). The brightness is kept as the Intensity at the moment of emission, and R320's table
is applied when the entry is read (`State.readDisplayList`). -/
inductive Vec where
  | line (x1 y1 x2 y2 : Coord) (level : Level)
  | point (x y : Coord) (level : Level)
  deriving DecidableEq, Repr

/-- One event of the Console (R40). -/
inductive ConsoleEvent where
  | char (c : BitVec 7)
  | haltDiag (pc : Addr) (ac : Word)
  deriving DecidableEq, Repr

/-- The reasons for a fault. There is none: R340 says that the hardware raises no exception of any kind, and that
every irregular condition is a no-op, a dropped effect or a halt flag (R341). -/
inductive Fault where
  deriving DecidableEq, Repr

/-- The reasons for a refusal. -/
inductive Refusal where
  /-- Raised by `exec` for an instruction without a meaning: no arm raises it. Safe. -/
  | notModelled (mnemonic : String)
  /-- Raised by `mpStep` and `dpStep` for a word that no row of the fetching processor takes. There is no such word
  (R110; the obligation EveryWordDecodes), so no step raises it. Safe. -/
  | noRow (unit : Processor) (word : Word)
  deriving DecidableEq, Repr

/-- Everything the spec gives the machine, and two fields of the model's own (`calls`, `asked`) for the driver. -/
structure State where
  /-- PC, the MP program counter (R20). -/
  pc : Addr
  /-- AC, the accumulator (R21). -/
  ac : Word
  /-- IR, the last word the MP fetched (R22). -/
  ir : Word
  /-- Link; `true` is 1 (R23). -/
  link : Bool
  /-- Halt (R24). -/
  halt : Bool
  /-- Run, a status output (R25). -/
  run : Bool
  /-- CYC, the count of executed MP instructions, unbounded (R26). -/
  cyc : Nat
  /-- DP.PC (R27). -/
  dpPc : Addr
  /-- DP.AC (R28). -/
  dpAc : Word
  /-- X, the beam position (R29). -/
  x : Coord
  /-- Y, the beam position (R29). -/
  y : Coord
  /-- DP.Halt (R30). -/
  dpHalt : Bool
  /-- DP.Enabled (R31). -/
  dpEnabled : Bool
  /-- Intensity (R32). -/
  intensity : Level
  /-- ScaleSel (R33). -/
  scaleSel : ScaleSel
  /-- STK[0..15], the DP return stack (R34). -/
  stk : Vector Addr (delta% Config.dpStackDepth)
  /-- SP, the number of valid stack entries, 0..16 (R34). -/
  sp : Fin ((delta% Config.dpStackDepth) + 1)
  /-- Memory (R35). -/
  mem : Memory
  /-- DL, the DisplayList entries in the order appended; DL.count is its length (R36). -/
  dl : List Vec
  /-- Keyboard (R37). -/
  keyboard : Word
  /-- LightPenX (R38). -/
  lightPenX : Word
  /-- LightPenY (R38). -/
  lightPenY : Word
  /-- LightPenHit (R39). -/
  lightPenHit : Bool
  /-- Console, the events in the order appended (R40). -/
  console : List ConsoleEvent
  /-- The model's own: the driver's pending operations, in the order it will call them (R14, R351; log entry 4). -/
  calls : List DriverOp
  /-- The model's own: how many operations the step has taken from the free schedule `Config.driver` (log entry 4). -/
  asked : Nat
  deriving DecidableEq, Repr

/-- The machine right after reset: as R385 says a newly built Machine is to be taken, the state after `powerOn()` with
Memory = `MEM_INIT`, an empty Console and idle input registers. DP.PC, CYC, DL.count, Halt and Run are the spec's;
the rest of the registers are `Config.resetValues` (log entry 2), and the stack entries, which R382 leaves without a
value, are 0 (DESIGN CHOICE, log entry 2). -/
def State.reset : State where
  pc := Config.resetValues.mpPc
  ac := Config.resetValues.mpAc
  ir := Config.resetValues.mpIr
  link := Config.resetValues.mpLink
  halt := false
  run := true
  cyc := 0
  dpPc := Config.dpPcReset
  dpAc := Config.resetValues.dpAc
  x := Config.resetValues.dpX
  y := Config.resetValues.dpY
  dpHalt := Config.resetValues.dpHalt
  dpEnabled := Config.resetValues.dpEnabled
  intensity := Config.resetValues.dpIntensity
  scaleSel := Config.resetValues.dpScaleSel
  stk := Vector.replicate _ 0
  sp := 0
  mem := []
  dl := []
  keyboard := 0
  lightPenX := 0
  lightPenY := 0
  lightPenHit := false
  console := []
  calls := []
  asked := 0

end Sys2Proof.Machine
end

