-- ==== Sys2Proof/Machine/Ops.lean ====
section
/-! DEFINITION. The named operations over Memory and the registers: word reads and writes, the skip, the halts, the DP
return stack, and the two bounded or append-only buffers. There is no exception to take (R340): the MP halt of R244
is the nearest thing to a trap entry (R344) and `powerOn()` the nearest thing to a return (R345). -/

namespace Sys2Proof.Machine

/-- The stored form of Memory is canonical: byte addresses strictly rising and inside the address space. -/
def Memory.wf (m : Memory) : Bool :=
  decide (m.Pairwise fun a b => a.1 < b.1) && m.all fun c => decide (c.1 < Config.memBytes)

/-- The stored byte at a byte address; `none` where nothing has been written. -/
def Memory.lookup : Memory → Nat → Option Byte
  | [], _ => none
  | (k, b) :: rest, a => if a = k then some b else Memory.lookup rest a

/-- What an unlisted byte address reads as: its half of the MEM_INIT word, a free value (R385; log entry 3). -/
def Memory.unlisted (a : Nat) : Byte :=
  (Config.memInit (BitVec.ofNat _ (a / 2))).extractLsb' (8 * (a % 2)) 8

/-- One stored byte. -/
def Memory.readByte (m : Memory) (a : Nat) : Byte := (m.lookup a).getD (Memory.unlisted a)

/-- Store one byte, keeping the addresses strictly rising. -/
def Memory.writeByte : Memory → Nat → Byte → Memory
  | [], a, v => [(a, v)]
  | (k, b) :: rest, a, v =>
      if a < k then (a, v) :: (k, b) :: rest
      else if a = k then (a, v) :: rest
      else (k, b) :: Memory.writeByte rest a v

/-- `MemRead(a, 1)`: one whole word, no side effect (R10, R62, R63). -/
def Memory.readWord (m : Memory) (a : Addr) : Word :=
  m.readByte (2 * a.toNat + 1) ++ m.readByte (2 * a.toNat)

/-- `MemWrite(a, 1, v)`: all sixteen bits of one word (R10, R62, R63). -/
def Memory.writeWord (m : Memory) (a : Addr) (v : Word) : Memory :=
  (m.writeByte (2 * a.toNat) (v.extractLsb' 0 8)).writeByte (2 * a.toNat + 1) (v.extractLsb' 8 8)

/-- The Memory word at an address (R63). -/
def State.readMem (s : State) (a : Addr) : Word := s.mem.readWord a

/-- Store a Memory word (R63). -/
def State.writeMem (s : State) (a : Addr) (v : Word) : State := { s with mem := s.mem.writeWord a v }

/-- A skip: `PC <- (PC + 1) & 0xFFF`, over the fetch advance; nothing else changes (R146). -/
def State.skip (s : State) : State := { s with pc := s.pc + 1 }

/-- A skip if a condition holds. -/
def State.skipIf (s : State) (c : Bool) : State := if c then s.skip else s

/-- Write Link and AC together. -/
def State.setLinkAc (s : State) (r : Bool × Word) : State := { s with link := r.1, ac := r.2 }

/-- `Console_Append(ev)` (R10, R40). -/
def State.consoleAppend (s : State) (ev : ConsoleEvent) : State := { s with console := s.console ++ [ev] }

/-- The MP halt: Halt, Run, and the diagnostic with the PC already advanced (R244, R245). -/
def State.haltMp (s : State) : State :=
  { s with halt := true, run := false }.consoleAppend (.haltDiag s.pc s.ac)

/-- The DP halt: `DP.Halt <- true` (R280, R281). -/
def State.haltDp (s : State) : State := { s with dpHalt := true }

/-- `push(v)`: dropped when the stack holds 16 entries (R273). -/
def State.push (s : State) (v : Addr) : State :=
  if h : s.sp.val < (delta% Config.dpStackDepth) then { s with stk := s.stk.set s.sp.val v h, sp := ⟨s.sp.val + 1, by omega⟩ } else s

/-- `ret()`: pop into DP.PC, or halt the DP when the stack is empty (R274). -/
def State.ret (s : State) : State :=
  if h : 0 < s.sp.val then { s with sp := ⟨s.sp.val - 1, by omega⟩, dpPc := s.stk[s.sp.val - 1]'(by omega) }
  else s.haltDp

/-- `DL_Append(e)`: dropped when the list holds `MAX_VEC` entries (R322). -/
def State.dlAppend (s : State) (e : Vec) : State :=
  if s.dl.length < Config.maxVec then { s with dl := s.dl ++ [e] } else s

/-- The MP fetch: IR, the advance of PC, and the cycle count (R142). -/
def State.mpFetch (s : State) : State :=
  { s with ir := s.readMem s.pc, pc := s.pc + 1, cyc := s.cyc + 1 }

/-- The DP fetch: the advance of DP.PC, and nothing else (R272). -/
def State.dpFetch (s : State) : State := { s with dpPc := s.dpPc + 1 }

end Sys2Proof.Machine
end

