-- ==== Sys2Proof/Machine/Operands.lean ====
section
/-! DEFINITION. The operand forms: the effective address, the literal, the rotate count, the beam coordinates and
displacements, and the brightness and Scale tables. -/

namespace Sys2Proof.Machine

/-- The effective address: with bit 11 of `ea0` clear, `ea0` itself; with it set, the low twelve bits of the pointer
cell at `ea0`, whose own bit 11 is part of the address (R143). -/
def State.ea (s : State) (ea0 : Addr) : Addr :=
  if ea0.getLsbD 11 then (s.readMem ea0).setWidth _ else ea0

/-- The operand word at the effective address. -/
def State.operand (s : State) (ea0 : Addr) : Word := s.readMem (s.ea ea0)

/-- LAW's literal: eleven bits zero-extended, or their 16-bit two's-complement negation (R94, R161). -/
def literal (neg : Bool) (lit : BitVec 11) : Word :=
  if neg then -(lit.setWidth _) else lit.setWidth _

/-- The rotate count: a count field of 0 rotates one place (R195, R196). -/
def rotateCount (n : BitVec 8) : Nat := if n = 0 then 1 else n.toNat

/-- A device character code: the low seven bits of AC (R222). -/
def charCode (ac : Word) : BitVec 7 := ac.setWidth 7

/-- The console takes codes from 32 up, and newline 0x0A (R222; 90_conflicts C5, decision D19). -/
def printable (c : BitVec 7) : Bool := decide (32 ≤ c.toNat) || c == 0x0A#7

/-- A 12-bit address as a coordinate: reduced modulo 1024 (R302; 90_conflicts C2). -/
def coordOf (addr : Addr) : Coord := addr.setWidth _

/-- A signed displacement from sign and magnitude, times the step multiplier (R102, R314). -/
def displacement (neg : Bool) (magnitude : BitVec 5) (m : Nat) : Int :=
  let d : Int := (magnitude.toNat * m : Nat)
  if neg then -d else d

/-- `(c + d) mod 1024`, the mathematical remainder (R10, R314). -/
def moveBy (c : Coord) (d : Int) : Coord := BitVec.ofInt _ ((c.toNat : Int) + d)

/-- Brightness: `max(Intensity / 7, 0.05)` as an exact rational (R320). -/
def bright (level : Level) : Rat := max ((level.toNat : Rat) / (Config.intensityMax : Rat)) Config.brightFloor

/-- The Scale value a selector names (R33, R312). -/
def scaleValue (sel : ScaleSel) : Rat := Config.scaleTable.getD sel.toNat 1

end Sys2Proof.Machine
end

