-- ==== Sys2Proof/Machine/DpControl.lean ====
section
/-! DEFINITION. The meanings of the DP control instructions (spec/45_dp_cycle_control.md), given the state after the
fetch: DP.PC is already the address of the next word (R272). -/

namespace Sys2Proof.Machine

/-- R276. -/
def execDjmp (addr : Addr) (s : State) : Host.Outcome State Fault Refusal := .next { s with dpPc := addr }

/-- R277: the push is dropped on a full stack, the jump is always taken. -/
def execDjms (addr : Addr) (s : State) : Host.Outcome State Fault Refusal :=
  .next { s.push s.dpPc with dpPc := addr }

/-- R278. -/
def execDret (s : State) : Host.Outcome State Fault Refusal := .next s.ret

/-- R279. -/
def execDrtn8 (s : State) : Host.Outcome State Fault Refusal := .next s.ret

/-- R280: the stack is kept. -/
def execDhlt8 (s : State) : Host.Outcome State Fault Refusal := .next s.haltDp

/-- R281. -/
def execDhlt (s : State) : Host.Outcome State Fault Refusal := .next s.haltDp

end Sys2Proof.Machine
end

