-- ==== Sys2Proof/Machine/DpDraw.lean ====
section
/-! DEFINITION. The meanings of the DP drawing and parameter instructions (spec/46_dp_draw.md), given the state after
the fetch. -/

namespace Sys2Proof.Machine

/-- `Intensity <- word & 7`, shared by three encodings (R300, R309, R311). -/
def State.setIntensity (s : State) (val : Level) : State := { s with intensity := val }

/-- `X <- addr mod 1024`, shared by two encodings (R302, R304). -/
def State.loadX (s : State) (addr : Addr) : State := { s with x := coordOf addr }

/-- `Y <- addr mod 1024`, shared by two encodings (R303, R305). -/
def State.loadY (s : State) (addr : Addr) : State := { s with y := coordOf addr }

/-- The common vector function with step multiplier `m`: append the Line from the old to the new position, then commit
the position, also when the append is dropped (R314). -/
def State.vector (s : State) (sx : Bool) (dx : BitVec 5) (sy : Bool) (dy : BitVec 5) (m : Nat) : State :=
  let nx := moveBy s.x (displacement sx dx m)
  let ny := moveBy s.y (displacement sy dy m)
  { s.dlAppend (.line s.x s.y nx ny s.intensity) with x := nx, y := ny }

/-- R300. -/
def execDintp (val : Level) (s : State) : Host.Outcome State Fault Refusal := .next (s.setIntensity val)

/-- R301. -/
def execDnop (_addr : Addr) (s : State) : Host.Outcome State Fault Refusal := .next s

/-- R302. -/
def execDlxa (addr : Addr) (s : State) : Host.Outcome State Fault Refusal := .next (s.loadX addr)

/-- R303. -/
def execDlya (addr : Addr) (s : State) : Host.Outcome State Fault Refusal := .next (s.loadY addr)

/-- R304. -/
def execDlxb (addr : Addr) (s : State) : Host.Outcome State Fault Refusal := .next (s.loadX addr)

/-- R305. -/
def execDlyb (addr : Addr) (s : State) : Host.Outcome State Fault Refusal := .next (s.loadY addr)

/-- R306: displacements of one step. -/
def execDsvec (sx : Bool) (dx : BitVec 5) (sy : Bool) (dy : BitVec 5) (s : State) :
    Host.Outcome State Fault Refusal :=
  .next (s.vector sx dx sy dy 1)

/-- R307: displacements of eight steps. -/
def execDlvec (sx : Bool) (dx : BitVec 5) (sy : Bool) (dy : BitVec 5) (s : State) :
    Host.Outcome State Fault Refusal :=
  .next (s.vector sx dx sy dy 8)

/-- R308. -/
def execDpt (s : State) : Host.Outcome State Fault Refusal :=
  .next (s.dlAppend (.point s.x s.y s.intensity))

/-- R309. -/
def execDint7 (val : Level) (s : State) : Host.Outcome State Fault Refusal := .next (s.setIntensity val)

/-- R310. -/
def execDnop7 (s : State) : Host.Outcome State Fault Refusal := .next s

/-- R311. -/
def execDint (val : Level) (s : State) : Host.Outcome State Fault Refusal := .next (s.setIntensity val)

/-- R312: stored and nothing more. -/
def execDscl (sel : ScaleSel) (s : State) : Host.Outcome State Fault Refusal := .next { s with scaleSel := sel }

/-- R313: both coordinates 0..31, no signs. -/
def execDsxy (x y : BitVec 5) (s : State) : Host.Outcome State Fault Refusal :=
  .next { s with x := x.setWidth _, y := y.setWidth _ }

end Sys2Proof.Machine
end

