-- ==== Sys2Proof/Machine/Iot.lean ====
section
/-! DEFINITION. The meanings of the IOT rows (spec/43_mp_iot.md), given the state after the fetch. The selected
function bits of one word act one after the other, bit 0 first, each on the state the one before left (R211). -/

namespace Sys2Proof.Machine

/-- Keyboard, function bit 0: `AC <- Keyboard` (R214). -/
def State.readKeyboard (s : State) : State := { s with ac := s.keyboard }

/-- Keyboard, function bit 1: `Keyboard <- 0` (R214). -/
def State.clearKeyboard (s : State) : State := { s with keyboard := 0 }

/-- R214. -/
def execIotKbd (read clear test : Bool) (s : State) : Host.Outcome State Fault Refusal :=
  let s1 := if read then s.readKeyboard else s
  let s2 := if clear then s1.clearKeyboard else s1
  .next (s2.skipIf (test && s2.keyboard != 0))

/-- Display control, function bit 0 (R218). -/
def State.toggleDp (s : State) : State := { s with dpEnabled := !s.dpEnabled }

/-- Display control, function bit 1: un-halt the DP at the low twelve bits of AC; the stack, the beam position,
Intensity and Scale are kept (R218). -/
def State.startDp (s : State) : State := { s with dpHalt := false, dpPc := s.ac.setWidth _ }

/-- R218. -/
def execIotDpc (toggle start stop : Bool) (s : State) : Host.Outcome State Fault Refusal :=
  let s1 := if toggle then s.toggleDp else s
  let s2 := if start then s1.startDp else s1
  .next (if stop then s2.haltDp else s2)

/-- R222: a code that the console does not take is dropped. -/
def execIotTty (s : State) : Host.Outcome State Fault Refusal :=
  .next (if printable (charCode s.ac) then s.consoleAppend (.char (charCode s.ac)) else s)

/-- R225: with both reads selected AC ends as LightPenY. -/
def execIotLpn (readX readY test : Bool) (s : State) : Host.Outcome State Fault Refusal :=
  let s1 := if readX then { s with ac := s.lightPenX } else s
  let s2 := if readY then { s1 with ac := s1.lightPenY } else s1
  .next (s2.skipIf (test && s2.lightPenHit))

/-- R229: the count already holds this instruction's own fetch. -/
def execIotCyc (s : State) : Host.Outcome State Fault Refusal :=
  .next { s with ac := BitVec.ofNat _ s.cyc }

/-- R231: no device, no effect. -/
def execIotNone (_dev : BitVec 6) (s : State) : Host.Outcome State Fault Refusal := .next s

end Sys2Proof.Machine
end

