-- ==== Sys2Proof/Machine/Flags.lean ====
section
/-! DEFINITION. The computations that write Link: addition with its carry (R166, R250) and the rotates of the 17-bit
ring Link:AC (R197). Link and AC are passed and answered as a pair (Link, AC). -/

namespace Sys2Proof.Machine

/-- The 17-bit unsigned sum of two words: (bit 16, bits 15:0) (R166). -/
def addCarry (a b : Word) : Bool × Word :=
  let sum : BitVec 17 := a.setWidth 17 + b.setWidth 17
  (sum.getLsbD 16, sum.setWidth _)

/-- Link as a word, for the formulas of R197. -/
def linkWord (link : Bool) : Word := (BitVec.ofBool link).setWidth _

/-- One place left: new Link = old AC bit 15, new AC bit 0 = old Link (R197). -/
def rotl17 (r : Bool × Word) : Bool × Word :=
  (r.2.getLsbD 15, (r.2 <<< 1) ||| linkWord r.1)

/-- One place right: new Link = old AC bit 0, new AC bit 15 = old Link (R197). -/
def rotr17 (r : Bool × Word) : Bool × Word :=
  (r.2.getLsbD 0, (r.2 >>> 1) ||| (linkWord r.1 <<< 15))

/-- `k` places left (R195). -/
def rotlTimes : Nat → Bool × Word → Bool × Word
  | 0, r => r
  | k + 1, r => rotlTimes k (rotl17 r)

/-- `k` places right (R196). -/
def rotrTimes : Nat → Bool × Word → Bool × Word
  | 0, r => r
  | k + 1, r => rotrTimes k (rotr17 r)

/-- The group skip test of SKP: the OR of the selected conditions, negated if `inv` (R95, R190). -/
def skipTest (inv dph key zlk pac zac : Bool) (ac keyboard : Word) (link dpHalt : Bool) : Bool :=
  let t := (zac && ac == 0) || (pac && !ac.getLsbD 15) || (zlk && !link) || (key && keyboard != 0) || (dph && dpHalt)
  if inv then !t else t

end Sys2Proof.Machine
end

