-- ==== Sys2Proof/Machine/MemRef.lean ====
section
/-! DEFINITION. The meanings of NOP, LAW, JMP, DAC, XAM, ISZ, ADD, AND, LDA, JMS and IOR (spec/41_mp_memref.md). Each is
given the state after the fetch: PC is already the address of the next word (R142). -/

namespace Sys2Proof.Machine

/-- R160. -/
def execNop (s : State) : Host.Outcome State Fault Refusal := .next s

/-- R161: AC alone; Link is not touched. -/
def execLaw (neg : Bool) (lit : BitVec 11) (s : State) : Host.Outcome State Fault Refusal :=
  .next { s with ac := literal neg lit }

/-- R162. -/
def execJmp (ea0 : Addr) (s : State) : Host.Outcome State Fault Refusal :=
  .next { s with pc := s.ea ea0 }

/-- R163. -/
def execDac (ea0 : Addr) (s : State) : Host.Outcome State Fault Refusal :=
  .next (s.writeMem (s.ea ea0) s.ac)

/-- R164: the effective address is fixed before the write (R67). -/
def execXam (ea0 : Addr) (s : State) : Host.Outcome State Fault Refusal :=
  .next { s.writeMem (s.ea ea0) s.ac with ac := s.operand ea0 }

/-- R165: skip when bit 15 of the incremented word is 0. -/
def execIsz (ea0 : Addr) (s : State) : Host.Outcome State Fault Refusal :=
  let r := s.operand ea0 + 1
  .next ((s.writeMem (s.ea ea0) r).skipIf (!r.getLsbD 15))

/-- R166: Link is the carry of this addition; the old Link is lost. -/
def execAdd (ea0 : Addr) (s : State) : Host.Outcome State Fault Refusal :=
  .next (s.setLinkAc (addCarry s.ac (s.operand ea0)))

/-- R167. -/
def execAnd (ea0 : Addr) (s : State) : Host.Outcome State Fault Refusal :=
  .next { s with ac := s.ac &&& s.operand ea0 }

/-- R168. -/
def execLda (ea0 : Addr) (s : State) : Host.Outcome State Fault Refusal :=
  .next { s with ac := s.operand ea0 }

/-- R169: the return address, already advanced, is stored at the effective address with its upper four bits 0. -/
def execJms (ea0 : Addr) (s : State) : Host.Outcome State Fault Refusal :=
  .next { s.writeMem (s.ea ea0) (s.pc.setWidth _) with pc := s.ea ea0 + 1 }

/-- R170. -/
def execIor (ea0 : Addr) (s : State) : Host.Outcome State Fault Refusal :=
  .next { s with ac := s.ac ||| s.operand ea0 }

end Sys2Proof.Machine
end

