-- ==== Sys2Proof/Machine/Operate.lean ====
section
/-! DEFINITION. The meanings of OPR and HLT (spec/44_mp_opr.md), given the state after the fetch: one operation for each
micro-op, and their fixed order (R241). -/

namespace Sys2Proof.Machine

/-- CLA (R246). -/
def State.cla (s : State) : State := { s with ac := 0 }

/-- CLL (R247). -/
def State.cll (s : State) : State := { s with link := false }

/-- CMA, the one's complement (R248). -/
def State.cma (s : State) : State := { s with ac := ~~~s.ac }

/-- CML (R249). -/
def State.cml (s : State) : State := { s with link := !s.link }

/-- IAC: the carry out of bit 15 is assigned to Link (R250, decision D6). -/
def State.iac (s : State) : State := s.setLinkAc (addCarry s.ac 1)

/-- STL (R251). -/
def State.stl (s : State) : State := { s with link := true }

/-- XDA: exchange AC with DP.AC (R254). -/
def State.xda (s : State) : State := { s with ac := s.dpAc, dpAc := s.ac }

/-- RL1 (R252). -/
def State.rl1 (s : State) : State := s.setLinkAc (rotl17 (s.link, s.ac))

/-- RR1 (R253). -/
def State.rr1 (s : State) : State := s.setLinkAc (rotr17 (s.link, s.ac))

/-- A micro-op acts if its bit selects it. -/
def State.micro (selected : Bool) (f : State → State) (s : State) : State := if selected then f s else s

/-- R244: halt; the rest of the word does not act. -/
def execHlt (s : State) : Host.Outcome State Fault Refusal := .next s.haltMp

/-- R240, R241: the selected micro-ops in the order of bits 10 to 2, each on the state the one before left. -/
def execOpr (cla cll cma cml iac stl xda rl1 rr1 : Bool) (s : State) : Host.Outcome State Fault Refusal :=
  let s := s.micro cla State.cla
  let s := s.micro cll State.cll
  let s := s.micro cma State.cma
  let s := s.micro cml State.cml
  let s := s.micro iac State.iac
  let s := s.micro stl State.stl
  let s := s.micro xda State.xda
  let s := s.micro rl1 State.rl1
  .next (s.micro rr1 State.rr1)

end Sys2Proof.Machine
end

