-- ==== Sys2Proof/Machine/SkipRotate.lean ====
section
/-! DEFINITION. The meanings of SKP, RAL and RAR (spec/42_mp_skip_rotate.md), given the state after the fetch. -/

namespace Sys2Proof.Machine

/-- R190: PC alone is written. -/
def execSkp (inv dph key zlk pac zac : Bool) (s : State) : Host.Outcome State Fault Refusal :=
  .next (s.skipIf (skipTest inv dph key zlk pac zac s.ac s.keyboard s.link s.dpHalt))

/-- R195. -/
def execRal (n : BitVec 8) (s : State) : Host.Outcome State Fault Refusal :=
  .next (s.setLinkAc (rotlTimes (rotateCount n) (s.link, s.ac)))

/-- R196. -/
def execRar (n : BitVec 8) (s : State) : Host.Outcome State Fault Refusal :=
  .next (s.setLinkAc (rotrTimes (rotateCount n) (s.link, s.ac)))

end Sys2Proof.Machine
end

