-- ==== Sys2Proof/Machine/Dispatch.lean ====
section
/-! DEFINITION. One arm for each instruction (R145, R275). The state is the one after the fetch of the instruction. -/

namespace Sys2Proof.Machine

def exec (i : Instr) (s : State) : Host.Outcome State Fault Refusal :=
  match i with
  | .nop => Sys2Proof.Machine.execNop s
  | .law neg lit => Sys2Proof.Machine.execLaw neg lit s
  | .jmp ea0 => Sys2Proof.Machine.execJmp ea0 s
  | .dac ea0 => Sys2Proof.Machine.execDac ea0 s
  | .xam ea0 => Sys2Proof.Machine.execXam ea0 s
  | .isz ea0 => Sys2Proof.Machine.execIsz ea0 s
  | .add ea0 => Sys2Proof.Machine.execAdd ea0 s
  | .and ea0 => Sys2Proof.Machine.execAnd ea0 s
  | .lda ea0 => Sys2Proof.Machine.execLda ea0 s
  | .jms ea0 => Sys2Proof.Machine.execJms ea0 s
  | .skp inv dph key zlk pac zac => Sys2Proof.Machine.execSkp inv dph key zlk pac zac s
  | .ior ea0 => Sys2Proof.Machine.execIor ea0 s
  | .ral n => Sys2Proof.Machine.execRal n s
  | .rar n => Sys2Proof.Machine.execRar n s
  | .iotKbd read clear test => Sys2Proof.Machine.execIotKbd read clear test s
  | .iotDpc toggle start stop => Sys2Proof.Machine.execIotDpc toggle start stop s
  | .iotTty => Sys2Proof.Machine.execIotTty s
  | .iotLpn readX readY test => Sys2Proof.Machine.execIotLpn readX readY test s
  | .iotCyc => Sys2Proof.Machine.execIotCyc s
  | .iotNone dev => Sys2Proof.Machine.execIotNone dev s
  | .hlt => Sys2Proof.Machine.execHlt s
  | .opr cla cll cma cml iac stl xda rl1 rr1 => Sys2Proof.Machine.execOpr cla cll cma cml iac stl xda rl1 rr1 s
  | .dintp val => Sys2Proof.Machine.execDintp val s
  | .dnop addr => Sys2Proof.Machine.execDnop addr s
  | .dlxa addr => Sys2Proof.Machine.execDlxa addr s
  | .dlya addr => Sys2Proof.Machine.execDlya addr s
  | .dsvec sx dx sy dy => Sys2Proof.Machine.execDsvec sx dx sy dy s
  | .dlvec sx dx sy dy => Sys2Proof.Machine.execDlvec sx dx sy dy s
  | .djmp addr => Sys2Proof.Machine.execDjmp addr s
  | .djms addr => Sys2Proof.Machine.execDjms addr s
  | .dpt => Sys2Proof.Machine.execDpt s
  | .dint7 val => Sys2Proof.Machine.execDint7 val s
  | .dnop7 => Sys2Proof.Machine.execDnop7 s
  | .drtn8 => Sys2Proof.Machine.execDrtn8 s
  | .dhlt8 => Sys2Proof.Machine.execDhlt8 s
  | .dint val => Sys2Proof.Machine.execDint val s
  | .dscl sel => Sys2Proof.Machine.execDscl sel s
  | .dret => Sys2Proof.Machine.execDret s
  | .dlxb addr => Sys2Proof.Machine.execDlxb addr s
  | .dlyb addr => Sys2Proof.Machine.execDlyb addr s
  | .dsxy x y => Sys2Proof.Machine.execDsxy x y s
  | .dhlt => Sys2Proof.Machine.execDhlt s

end Sys2Proof.Machine
end

