-- ==== Sys2Proof/Machine/Driver.lean ====
section
/-! DEFINITION. The operations of the host and the driver other than the two steps (spec/00_scope.md R13;
spec/60_exceptions.md R352 to R356; spec/70_reset_and_hazards.md R380 to R383), and what the host reads back. -/

namespace Sys2Proof.Machine

/-- `reset()` with the reset record `r` (R380, R381, R382): the MP and DP registers, CYC and DL.count; SP is 0 and the
stack entries are not reset; Memory, the Console and the input registers are kept. -/
def State.resetOp (r : ResetRecord) (s : State) : State :=
  { s with
    pc := r.mpPc, ac := r.mpAc, ir := r.mpIr, link := r.mpLink, halt := r.mpHalt, run := r.mpRun, cyc := 0
    dpPc := Config.dpPcReset, dpAc := r.dpAc, x := r.dpX, y := r.dpY, dpHalt := r.dpHalt, dpEnabled := r.dpEnabled
    intensity := r.dpIntensity, scaleSel := r.dpScaleSel, sp := 0, dl := [] }

/-- `powerOn()`: `reset()`, then Run and not Halt (R383). -/
def State.powerOnOp (r : ResetRecord) (s : State) : State := { s.resetOp r with run := true, halt := false }

/-- `dlClear()` (R324). -/
def State.dlClear (s : State) : State := { s with dl := [] }

/-- `setKeyboard(v)` (R352). -/
def State.setKeyboard (s : State) (v : Nat) : State := { s with keyboard := BitVec.ofNat _ v }

/-- `setLightPen(x, y, hit)` (R353). -/
def State.setLightPen (s : State) (x y : Nat) (hit : Bool) : State :=
  { s with lightPenX := BitVec.ofNat _ x, lightPenY := BitVec.ofNat _ y, lightPenHit := hit }

/-- What `peek(a)` returns (R354). -/
def State.peek (s : State) (a : Nat) : Word := s.readMem (BitVec.ofNat _ a)

/-- `poke(a, v)` (R354). -/
def State.poke (s : State) (a v : Nat) : State := s.writeMem (BitVec.ofNat _ a) (BitVec.ofNat _ v)

/-- A DisplayList entry as its reader sees it: coordinates 0..1023 and a brightness (R321). -/
inductive Shown where
  | line (x1 y1 x2 y2 : Nat) (brightness : Rat)
  | point (x y : Nat) (brightness : Rat)
  deriving DecidableEq, Repr

/-- R320's table, applied to a stored entry (R320, R321). -/
def Vec.shown : Vec → Shown
  | .line x1 y1 x2 y2 level => .line x1.toNat y1.toNat x2.toNat y2.toNat (bright level)
  | .point x y level => .point x.toNat y.toNat (bright level)

/-- What `readDisplayList()` returns: the entries in order (R355). -/
def State.readDisplayList (s : State) : List Shown := s.dl.map Vec.shown

/-- What `readConsole()` returns (R356). -/
def State.readConsole (s : State) : List ConsoleEvent := s.console

/-- The text of one Console event, the halt diagnostic in the open format (R245, R8). -/
def ConsoleEvent.text : ConsoleEvent → List Char
  | .char c => [Char.ofNat c.toNat]
  | .haltDiag pc ac => Config.haltDiagFormat pc ac

/-- The Console as text (R40, R356). -/
def State.consoleText (s : State) : List Char := s.console.flatMap ConsoleEvent.text

/-- The Scale value, which the host can see and no rule uses (R33, R312). -/
def State.scale (s : State) : Rat := scaleValue s.scaleSel

end Sys2Proof.Machine
end

