-- ==== Sys2Proof/Machine/Cycle.lean ====
section
/-! DEFINITION. The two step functions (R140, R270) and the meaning of every operation of the driver (R13). -/

namespace Sys2Proof.Machine

/-- `mpStep()`: nothing if Halt; else fetch, decode, execute. Run is not tested (R140, R141). The decode's pointer read
for the opcodes without an effective address is left out: it has no effect (R144). -/
def mpStep (s : State) : Host.Outcome State Fault Refusal :=
  if s.halt then .next s
  else
    match decodeMp (s.readMem s.pc) with
    | some i => exec i s.mpFetch
    | none => .refused (.noRow .mp (s.readMem s.pc))

/-- `dpStep()`: nothing unless Enabled and not halted; else fetch, decode, execute (R270, R271). -/
def dpStep (s : State) : Host.Outcome State Fault Refusal :=
  if s.dpEnabled && !s.dpHalt then
    match decodeDp (s.readMem s.dpPc) with
    | some i => exec i s.dpFetch
    | none => .refused (.noRow .dp (s.readMem s.dpPc))
  else .next s

/-- One operation of the driver or the host, as one atomic transition (R13, R70). The three reads change nothing; what
they return is `State.peek`, `State.readDisplayList` and `State.readConsole`. -/
def perform (op : DriverOp) (s : State) : Host.Outcome State Fault Refusal :=
  match op with
  | .reset => .next (s.resetOp Config.resetValues)
  | .powerOn => .next (s.powerOnOp Config.resetValues)
  | .mpStep => mpStep s
  | .dpStep => dpStep s
  | .dlClear => .next s.dlClear
  | .setKeyboard v => .next (s.setKeyboard v)
  | .setLightPen x y hit => .next (s.setLightPen x y hit)
  | .peek _ => .next s
  | .poke a v => .next (s.poke a v)
  | .readDisplayList => .next s
  | .readConsole => .next s

/-- The next operation of the driver, and the state with that choice taken: the first pending call, or, where none is
pending, the free schedule's (R351, R358; log entry 4). -/
def nextCall (s : State) : DriverOp × State :=
  match s.calls with
  | op :: rest => (op, { s with calls := rest })
  | [] => (Config.driver s.asked, { s with asked := s.asked + 1 })

/-- The state with an MP word placed where the next step fetches and runs it (log entry 6). -/
def State.placeMpWord (s : State) (w : Word) : State :=
  { s.writeMem s.pc w with halt := false, calls := .mpStep :: s.calls }

/-- The state with a DP word placed where the next step fetches and runs it (log entry 6). -/
def State.placeDpWord (s : State) (w : Word) : State :=
  { s.writeMem s.dpPc w with dpEnabled := true, dpHalt := false, calls := .dpStep :: s.calls }

end Sys2Proof.Machine
end

