-- ==== Sys2Proof/Machine/Step.lean ====
section
/-! DEFINITION. One step of the machine: the driver's next operation (R13, R70, R351). -/

namespace Sys2Proof.Machine

/-- One step. -/
def step (s : State) : Host.Outcome State Fault Refusal :=
  perform (nextCall s).1 (nextCall s).2

/-- `s` with an opcode-table word placed so that the very next step fetches and runs it, as the MP's (log entry 6). -/
def State.withFetchWord (s : State) (nbits w : Nat) : State :=
  s.placeMpWord (BitVec.ofNat _ (w % 2 ^ nbits))

end Sys2Proof.Machine
end

