-- ==== Sys2Proof/Machine/Assembler.lean ====
section
/-! DEFINITION. The two-pass assembler (spec/30_encoding.md R120 to R131): from a text, the words that `assemble(text)`
pokes into Memory, in order, and the value it returns. The spec places it outside the hardware (R5); to the machine it is
a sequence of `poke` operations (R354). -/

namespace Sys2Proof.Machine

/-- One token of a line. -/
abbrev Token := List Char

/-- The labels recorded so far, the latest first (R122, R130). -/
abbrev Labels := List (Token × Nat)

/-- The pieces of a list between the members that `p` marks. -/
def splitAtMarks (p : Char → Bool) : List Char → List (List Char)
  | [] => [[]]
  | c :: rest =>
      match splitAtMarks p rest with
      | [] => [[c]]
      | piece :: more => if p c then [] :: piece :: more else (c :: piece) :: more

/-- The tokens of a line, its comment cut off (R120; separators by decision D37). DESIGN CHOICE, log entry 13: white space is
space, tab, carriage return and line feed. -/
def tokensOf (line : List Char) : List Token :=
  (splitAtMarks Char.isWhitespace (line.takeWhile fun c => c != ';')).filter fun t => !t.isEmpty

/-- The lines of a text, each as its tokens (R120). DESIGN CHOICE, log entry 13: a line feed, and nothing else, ends a line. -/
def linesOf (text : List Char) : List (List Token) := (splitAtMarks (fun c => c == '\n') text).map tokensOf

/-- Upper case, for mnemonics, directives and label names (R120). DESIGN CHOICE, log entry 13: the letters a to z alone change, so
names with other letters keep their case. -/
def upper (t : Token) : Token := t.map Char.toUpper

/-- A digit of the given base, upper or lower case. -/
def digitOf (base : Nat) (c : Char) : Option Nat :=
  let u := c.toUpper
  let d := if u.isDigit then some (u.toNat - 48) else if 'A' ≤ u ∧ u ≤ 'F' then some (u.toNat - 55) else none
  d.bind fun n => if n < base then some n else none

/-- A number in the given base; a token that is none is 0, "silent fallback, not an error" (R124). DESIGN CHOICE, log entry 13:
a number is digits of its base and nothing else, so a token with a sign, or with digits before other characters, is none. -/
def numberOf (base : Nat) (t : Token) : Nat :=
  (t.foldl (fun acc c => acc.bind fun n => (digitOf base c).map fun d => n * base + d) (some 0)).getD 0

/-- Value resolution: hexadecimal, else a known label, else decimal (R124). -/
def resolve (labels : Labels) (t : Token) : Nat :=
  match t with
  | '0' :: 'x' :: hex => numberOf 16 hex
  | '0' :: 'X' :: hex => numberOf 16 hex
  | _ => (labels.lookup (upper t)).getD (numberOf 10 t)

/-- The operand of a statement: its first token after the mnemonic or `.ORG` (log entry 13 for none). DESIGN CHOICE, log entry 13:
tokens after it, and any after a mnemonic that takes no operand, are ignored. -/
def resolveFirst (labels : Labels) (operands : List Token) : Nat :=
  match operands with
  | t :: _ => resolve labels t
  | [] => Config.asmMissing

/-- The table entry of a mnemonic: the three entries the source shows (R127, R128), JMP as R126 assembles it, and the free
rest (log entry 13). -/
def mnemonicEntry (name : Token) : Option (Word × Bool) :=
  if name = ['L', 'A', 'W'] then some (0x1000#16, true)
  else if name = ['A', 'D', 'D'] then some (0x6000#16, true)
  else if name = ['J', 'M', 'P'] then some (0x2000#16, true)
  else if name = ['H', 'L', 'T'] then some (0xF800#16, false)
  else Config.asmTable name

/-- A statement of a line, its label cut off (R121). -/
inductive Statement where
  | org (operands : List Token)
  | data (operands : List Token)
  | op (base : Word) (takesOperand : Bool) (operands : List Token)
  | nothing
  deriving DecidableEq, Repr

/-- The statement that a line's tokens form; an unknown mnemonic, `.DP` and `.MP` form none (R121, R123). -/
def statementOf (line : List Token) : Statement :=
  match line with
  | [] => .nothing
  | head :: operands =>
      let name := upper head
      if name = ['.', 'O', 'R', 'G'] ∨ name = ['O', 'R', 'G'] then .org operands
      else if name = ['.', 'D', 'P'] ∨ name = ['.', 'M', 'P'] then .nothing
      else if name = ['.', 'W', 'O', 'R', 'D'] ∨ name = ['D', 'A', 'T', 'A'] then .data operands
      else
        match mnemonicEntry name with
        | some (base, takesOperand) => .op base takesOperand operands
        | none => .nothing

/-- A leading label, upper-cased and without its colon, and the rest of the line (R121, R122). R121's grammar has
one label a line. DESIGN CHOICE, log entry 13: on a line outside it, a second token that ends in a colon is read as the mnemonic. -/
def splitLabel (line : List Token) : Option Token × List Token :=
  match line with
  | [] => (none, [])
  | head :: rest => if head.getLast? = some ':' then (some (upper head.dropLast), rest) else (none, head :: rest)

/-- The word of an operand-taking mnemonic: eleven operand bits under top nibble 1, else twelve (R125). -/
def operandWord (base : Word) (value : Nat) : Nat :=
  base.toNat ||| (if base.toNat / 4096 = 1 then value % 2048 else value % 4096)

/-- The words a statement writes, in order (R123). -/
def Statement.words (labels : Labels) (st : Statement) : List Nat :=
  match st with
  | .data operands => operands.map (resolve labels)
  | .op base true operands => [operandWord base (resolveFirst labels operands)]
  | .op base false _ => [base.toNat]
  | .org _ => []
  | .nothing => []

/-- The running address after a statement (R122, R123). DESIGN CHOICE, log entry 13: it is not reduced to twelve bits, so a label,
and the value returned, can pass 0xFFF; the poke of a word masks its address (R354). -/
def Statement.next (labels : Labels) (addr : Nat) (st : Statement) : Nat :=
  match st with
  | .org operands => resolveFirst labels operands
  | .data operands => addr + operands.length
  | .op _ _ _ => addr + 1
  | .nothing => addr

/-- Pass 1: the labels (R122). -/
def passOne : List (List Token) → Nat → Labels → Labels
  | [], _, labels => labels
  | line :: rest, addr, labels =>
      let (label, body) := splitLabel line
      let known := match label with
        | some name => (name, addr) :: labels
        | none => labels
      passOne rest ((statementOf body).next known addr) known

/-- Words at rising addresses from `addr`. -/
def placed (addr : Nat) : List Nat → List (Nat × Nat)
  | [] => []
  | w :: rest => (addr, w) :: placed (addr + 1) rest

/-- Pass 2: the (address, word) pairs in the order written, and the final address (R123). -/
def passTwo (labels : Labels) : List (List Token) → Nat → List (Nat × Nat) × Nat
  | [], addr => ([], addr)
  | line :: rest, addr =>
      let st := statementOf (splitLabel line).2
      let (later, final) := passTwo labels rest (st.next labels addr)
      (placed addr (st.words labels) ++ later, final)

/-- `assemble(text)`: the words written, and the value returned, the final address minus the base origin (R129). -/
def assemble (text : List Char) : List (Nat × Nat) × Int :=
  let lines := linesOf text
  let base := Config.asmOrigin.toNat
  let (writes, final) := passTwo (passOne lines base []) lines base
  (writes, (final : Int) - (base : Int))

/-- `assemble(text)` as the driver's operations: a sequence of pokes, each with the masks of R354. -/
def assembleCalls (text : List Char) : List DriverOp := (assemble text).1.map fun w => .poke w.1 w.2

end Sys2Proof.Machine
end

