-- ==== Sys2Proof/Safety.lean ====
section
/-! DEFINITION. The terms claims are made in: the invariant of R45, the end of a run (R349), and which parts of the state
belong to which agent (R43). -/

namespace Sys2Proof.Machine

/-- What R45, R36 and R222 say of every state between two operations and the types of State do not already say: the stored
form of Memory is canonical, the DisplayList is within its capacity, and the Console holds only characters that the
console device takes. -/
def State.Inv (s : State) : Prop :=
  s.mem.wf = true ∧ s.dl.length ≤ Config.maxVec ∧ ∀ c, ConsoleEvent.char c ∈ s.console → printable c = true

/-- The end of a run as R349 defines it (the spec's own definition): MP halted, and DP halted or not enabled. -/
def State.ended (s : State) : Prop := s.halt = true ∧ (s.dpHalt = true ∨ s.dpEnabled = false)

/-- Two states agree on everything that the DP can reach: Memory, its own registers and stack, and the DisplayList; and on
the two DP flags that gate it (R43, R66). DP.AC is not in the list: no DP instruction reads it (R28). -/
def State.sameForDp (s t : State) : Prop :=
  s.mem = t.mem ∧ s.dpPc = t.dpPc ∧ s.x = t.x ∧ s.y = t.y ∧ s.dpHalt = t.dpHalt ∧ s.dpEnabled = t.dpEnabled ∧
    s.intensity = t.intensity ∧ s.scaleSel = t.scaleSel ∧ s.stk = t.stk ∧ s.sp = t.sp ∧ s.dl = t.dl

/-- Two states agree on the MP's registers and CYC (R20 to R26). -/
def State.sameMpRegs (s t : State) : Prop :=
  s.pc = t.pc ∧ s.ac = t.ac ∧ s.ir = t.ir ∧ s.link = t.link ∧ s.halt = t.halt ∧ s.run = t.run ∧ s.cyc = t.cyc

/-- Two states agree on what the host supplies or reads: the input registers and the Console (R37 to R40). -/
def State.sameHostSide (s t : State) : Prop :=
  s.keyboard = t.keyboard ∧ s.lightPenX = t.lightPenX ∧ s.lightPenY = t.lightPenY ∧ s.lightPenHit = t.lightPenHit ∧
    s.console = t.console

/-- Two states agree on what the MP never reaches: X, Y, Intensity, Scale, the return stack and the DisplayList (R43). -/
def State.sameBeam (s t : State) : Prop :=
  s.x = t.x ∧ s.y = t.y ∧ s.intensity = t.intensity ∧ s.scaleSel = t.scaleSel ∧ s.stk = t.stk ∧ s.sp = t.sp ∧ s.dl = t.dl

/-- Two states agree on the DP state that the MP can reach: DP.AC, DP.Halt, DP.PC and DP.Enabled (R43). -/
def State.sameDpControl (s t : State) : Prop :=
  s.dpAc = t.dpAc ∧ s.dpHalt = t.dpHalt ∧ s.dpPc = t.dpPc ∧ s.dpEnabled = t.dpEnabled

/-- Who writes PC after the fetch: JMP, JMS, and the four that can skip (R20, R146). -/
def writesPc : Instr → Bool
  | .jmp _ | .jms _ | .isz _ | .skp .. | .iotKbd .. | .iotLpn .. => true
  | _ => false

/-- Who writes AC (R21). -/
def writesAc : Instr → Bool
  | .law .. | .xam _ | .add _ | .and _ | .lda _ | .ior _ | .ral _ | .rar _ => true
  | .iotKbd .. | .iotLpn .. | .iotCyc | .opr .. => true
  | _ => false

/-- Who writes DP.PC after the fetch: IOT 0x02, DJMP, DJMS and the two returns (R27). -/
def writesDpPc : Instr → Bool
  | .iotDpc .. | .djmp _ | .djms _ | .dret | .drtn8 => true
  | _ => false

/-- Who writes X: DP ops 0x1, 0xC, 0xE, and the vectors (R29). -/
def writesX : Instr → Bool
  | .dlxa _ | .dlxb _ | .dsxy .. | .dsvec .. | .dlvec .. => true
  | _ => false

/-- Who writes Y: DP ops 0x2, 0xD, 0xE, and the vectors (R29). -/
def writesY : Instr → Bool
  | .dlya _ | .dlyb _ | .dsxy .. | .dsvec .. | .dlvec .. => true
  | _ => false

/-- Who writes DP.Halt: IOT 0x02, the two DP halts, and the two returns, on an empty stack (R30). -/
def writesDpHalt : Instr → Bool
  | .iotDpc .. | .dhlt8 | .dhlt | .dret | .drtn8 => true
  | _ => false

/-- Who writes Intensity: DP ops 0x0 (pattern form), 0x7 (bit 4 form) and 0x9 (R32). -/
def writesIntensity : Instr → Bool
  | .dintp _ | .dint7 _ | .dint _ => true
  | _ => false

/-- Who writes Memory: DAC, XAM, ISZ and JMS (R66). -/
def storesMemory : Instr → Bool
  | .dac _ | .xam _ | .isz _ | .jms _ => true
  | _ => false

/-- Who writes Link: ADD, RAL, RAR, and OPR (R23). -/
def writesLink : Instr → Bool
  | .add _ | .ral _ | .rar _ | .opr .. => true
  | _ => false

/-- Who appends to the DisplayList: DP ops 0x3, 0x4 and 0x7 with bit 11 (R323). -/
def appendsEntry : Instr → Bool
  | .dsvec .. | .dlvec .. | .dpt => true
  | _ => false

/-- Who moves the DP return stack: DJMS and the two returns (R34). -/
def movesStack : Instr → Bool
  | .djms _ | .dret | .drtn8 => true
  | _ => false

/-- Who appends to the Console: IOT device 0x04 and HLT (R40). -/
def appendsEvent : Instr → Bool
  | .iotTty | .hlt => true
  | _ => false

/-- PC after an MP step that began with PC = `s.pc` and Halt false and decoded `i`: the table of R147. -/
def mpNextPc (i : Instr) (s : State) : Addr :=
  let two (c : Bool) : Addr := if c then s.pc + 2 else s.pc + 1
  match i with
  | .jmp ea0 => s.ea ea0
  | .jms ea0 => s.ea ea0 + 1
  | .isz ea0 => two (decide (((s.operand ea0).toNat + 1) % 65536 < 32768))
  | .skp inv dph key zlk pac zac => two (skipTest inv dph key zlk pac zac s.ac s.keyboard s.link s.dpHalt)
  | .iotKbd _ clear test => two (test && !clear && s.keyboard != 0)
  | .iotLpn _ _ test => two (test && s.lightPenHit)
  | _ => s.pc + 1

/-- DP.PC after a DP step that began with DP.PC = `s.dpPc` and the gate open and decoded `i` (R283). -/
def dpNextPc (i : Instr) (s : State) : Addr :=
  match i with
  | .djmp addr | .djms addr => addr
  | .dret | .drtn8 => if h : 0 < s.sp.val then s.stk[s.sp.val - 1]'(by omega) else s.dpPc + 1
  | _ => s.dpPc + 1

/-- The bits of its word that an instruction examines when it is decoded: all but those R111 lists as ignored. (For the
four absolute loads R111 lists bits 11:10 too: they are examined here and removed by the modulo 1024.) -/
def examined : Instr → Word
  | .nop => 0xF000#16
  | .law .. | .jmp _ | .dac _ | .xam _ | .isz _ | .add _ | .and _ | .lda _ | .jms _ | .ior _ => 0xFFFF#16
  | .skp .. => 0xF03F#16
  | .ral _ | .rar _ => 0xF0FF#16
  | .iotKbd .. | .iotDpc .. | .iotLpn .. => 0xFFC7#16
  | .iotTty | .iotCyc | .iotNone _ => 0xFFC0#16
  | .hlt => 0xF800#16
  | .opr .. => 0xFFFC#16
  | .dintp _ | .dnop _ | .dlxa _ | .dlya _ | .dsvec .. | .dlvec .. | .djmp _ | .djms _ | .dlxb _ | .dlyb _ => 0xFFFF#16
  | .dpt | .drtn8 | .dhlt8 => 0xF800#16
  | .dint7 _ => 0xF817#16
  | .dnop7 => 0xF810#16
  | .dint _ => 0xF007#16
  | .dscl _ => 0xF003#16
  | .dret | .dhlt => 0xF000#16
  | .dsxy .. => 0xF7DF#16

/-- The selected micro-ops of an OPR word on (AC, Link, DP.AC) as plain numbers, written from R246 to R254 in the order of
R241; the rotates turn the 17-bit number Link * 65536 + AC (R197). -/
def oprExact (cla cll cma cml iac stl xda rl1 rr1 : Bool) (ac link dpAc : Nat) : Nat × Nat × Nat :=
  let ac := if cla then 0 else ac
  let link := if cll then 0 else link
  let ac := if cma then 65535 - ac else ac
  let link := if cml then 1 - link else link
  let (ac, link) := if iac then ((ac + 1) % 65536, (ac + 1) / 65536) else (ac, link)
  let link := if stl then 1 else link
  let (ac, dpAc) := if xda then (dpAc, ac) else (ac, dpAc)
  let ring := link * 65536 + ac
  let ring := if rl1 then 2 * ring % 131072 + ring / 65536 else ring
  let ring := if rr1 then ring / 2 + ring % 2 * 65536 else ring
  (ring % 65536, ring / 65536, dpAc)

/-- The instructions of a list run one after the other, without the fetches between them. -/
def execAll : List Instr → State → Host.Outcome State Fault Refusal
  | [], s => .next s
  | i :: rest, s =>
      match exec i s with
      | .next t => execAll rest t
      | .fault f => .fault f
      | .refused r => .refused r

/-- A list of driver operations performed in order. -/
def performAll : List DriverOp → State → Host.Outcome State Fault Refusal
  | [], s => .next s
  | op :: rest, s =>
      match perform op s with
      | .next t => performAll rest t
      | .fault f => .fault f
      | .refused r => .refused r

end Sys2Proof.Machine
end

