-- ==== Sys2Proof/WellFormed.lean ====
section
/-! DEFINITION. Which terms of Instr stand for a word. Two rows of the opcode table are fallback rows (R113): their
operand may not be one that an earlier row takes. Every other term is well formed. -/

namespace Sys2Proof

/-- The five device codes that have a device (R61, R97). -/
def knownDevices : List (BitVec 6) := [0x01, 0x02, 0x04, 0x10, 0x20]

/-- A fallback row's operand is outside the rows before it: IOT with a device code that has no device (R231), and a
DP op-0x0 word outside 0x0E00..0x0E07 (R301). -/
def Instr.wellFormed : Instr → Bool
  | .iotNone dev => !knownDevices.contains dev
  | .dnop addr => !(addr.extractLsb' 3 9 == 0x1C0#9)
  | .nop | .law .. | .jmp .. | .dac .. | .xam .. | .isz .. | .add .. | .and .. | .lda .. | .jms .. => true
  | .skp .. | .ior .. | .ral .. | .rar .. => true
  | .iotKbd .. | .iotDpc .. | .iotTty | .iotLpn .. | .iotCyc | .hlt | .opr .. => true
  | .dintp .. | .dlxa .. | .dlya .. | .dsvec .. | .dlvec .. | .djmp .. | .djms .. => true
  | .dpt | .dint7 .. | .dnop7 | .drtn8 | .dhlt8 | .dint .. | .dscl .. | .dret => true
  | .dlxb .. | .dlyb .. | .dsxy .. | .dhlt => true

end Sys2Proof
end

