-- ==== Sys2Proof/Certificates/Slice0/Obligations.lean ====
section
/-! DEFINITION. The statements for the provers, from the numbered rules of spec/. `exec i s` is the effect of an
instruction on the state after its fetch (R142, R272); the fetch itself is stated at the end. A record equation
`t = { s with … }` is the frame: every field it does not name is as before. -/

open Sys2Proof Sys2Proof.Machine

/-! ## Reset and the host's operations -/

/-- R380, R382: for every reset record, `reset()` sets DP.PC, CYC and DL.count, and every other MP and DP register but the
stack entries to its RESET field, whatever the state before; Memory and Console are kept. That SP becomes 0 and that the
input registers are kept (R381) is decision D10 of the spec; the machine's own record is log entry 2. -/
def Obligations.ResetReinitialisesAndKeepsMemory : Prop :=
  (∀ s, perform .reset s = .next (s.resetOp Config.resetValues)) ∧
  ∀ (r : ResetRecord) (s t : State),
    (s.resetOp r).dpPc = 0x100#12 ∧ (s.resetOp r).cyc = 0 ∧ (s.resetOp r).dl = [] ∧
    (s.resetOp r).pc = r.mpPc ∧ (s.resetOp r).ac = r.mpAc ∧ (s.resetOp r).ir = r.mpIr ∧ (s.resetOp r).link = r.mpLink ∧
    (s.resetOp r).halt = r.mpHalt ∧ (s.resetOp r).run = r.mpRun ∧ (s.resetOp r).dpAc = r.dpAc ∧
    (s.resetOp r).x = r.dpX ∧ (s.resetOp r).y = r.dpY ∧ (s.resetOp r).dpHalt = r.dpHalt ∧
    (s.resetOp r).dpEnabled = r.dpEnabled ∧ (s.resetOp r).intensity = r.dpIntensity ∧
    (s.resetOp r).scaleSel = r.dpScaleSel ∧
    (s.resetOp r).sameMpRegs (t.resetOp r) ∧ (s.resetOp r).sameDpControl (t.resetOp r) ∧
    (s.resetOp r).x = (t.resetOp r).x ∧ (s.resetOp r).y = (t.resetOp r).y ∧
    (s.resetOp r).intensity = (t.resetOp r).intensity ∧ (s.resetOp r).scaleSel = (t.resetOp r).scaleSel ∧
    (s.resetOp r).sp = 0 ∧ (s.resetOp r).mem = s.mem ∧ (s.resetOp r).sameHostSide s

/-- R383: `powerOn()` is reset, then Run = true and Halt = false; R384: both are idempotent and keep Memory. They hold for every
reset record; that the machine's own `powerOn()` uses `Config.resetValues` is log entry 2 (DESIGN CHOICE). -/
def Obligations.PowerOnIsResetThenRunAndBothAreIdempotent : Prop :=
  (∀ s, perform .powerOn s = .next (s.powerOnOp Config.resetValues)) ∧
  ∀ (r : ResetRecord) (s : State),
    s.powerOnOp r = { s.resetOp r with run := true, halt := false } ∧
    (s.resetOp r).resetOp r = s.resetOp r ∧ (s.powerOnOp r).powerOnOp r = s.powerOnOp r ∧
    (s.powerOnOp r).mem = s.mem

/-- R385 (decision D12): the state the model starts from is `powerOn()` of a Machine with nothing stored, an empty Console and
idle input registers. The first clause pins every register to the record `Config.resetValues`, the model's choice of log
entry 2 (decisions D10, D11). -/
def Obligations.ResetStateIsPowerOnOfNewMachine : Prop :=
  State.reset.powerOnOp Config.resetValues = State.reset ∧ State.reset.mem = [] ∧ State.reset.console = [] ∧
  State.reset.keyboard = 0 ∧ State.reset.lightPenX = 0 ∧ State.reset.lightPenY = 0 ∧
  State.reset.lightPenHit = false ∧ State.reset.halt = false ∧ State.reset.run = true ∧
  State.reset.dpPc = 0x100#12 ∧ State.reset.cyc = 0 ∧ State.reset.dl = []

/-- R352, R353, R354, R324: the masks of the host's writes, the reads that change nothing, and the clear. -/
def Obligations.HostOperationsMaskAndTouchOnlyTheirRegister : Prop :=
  ∀ (s : State) (a b v x y : Nat) (hit : Bool),
    perform (.setKeyboard v) s = .next { s with keyboard := BitVec.ofNat 16 (v % 65536) } ∧
    perform (.setLightPen x y hit) s = .next { s with
      lightPenX := BitVec.ofNat 16 (x % 65536), lightPenY := BitVec.ofNat 16 (y % 65536), lightPenHit := hit } ∧
    perform .dlClear s = .next { s with dl := [] } ∧
    perform (.peek a) s = .next s ∧ perform .readDisplayList s = .next s ∧ perform .readConsole s = .next s ∧
    ∃ t, perform (.poke a v) s = .next t ∧ t = { s with mem := t.mem } ∧
      t.peek b = if b % 4096 = a % 4096 then BitVec.ofNat 16 (v % 65536) else s.peek b

/-! ## Memory -/

/-- R63, R65: a word just written is read back, and every other word is left alone. -/
def Obligations.MemoryReadsTheWordLastWritten : Prop :=
  ∀ (s : State) (a b : Addr) (v : Word),
    (s.writeMem a v).readMem a = v ∧ (b ≠ a → (s.writeMem a v).readMem b = s.readMem b)

/-! ## Decoding -/

/-- R110: every word decodes, on either processor, to a well-formed instruction of that processor, and none traps: the
instruction answers a next state from every state. -/
def Obligations.EveryWordDecodes : Prop :=
  ∀ (p : Processor) (w : Word), ∃ i, decode p w = some i ∧ i.wellFormed = true ∧ i.unit = p ∧
    ∀ s, ∃ t, exec i s = .next t

/-- R92 to R102: decoding the word of a well-formed instruction gives the instruction back, every operand whole. -/
def Obligations.DecodeOfEncodeIsTheInstruction : Prop :=
  ∀ i : Instr, i.wellFormed = true → decode i.unit (encode i) = some i

/-- R111: words that agree on the bits the instruction examines decode alike, and the encoder's word is the decoded word
with exactly the ignored bits cleared. -/
def Obligations.IgnoredBitsDoNotReachTheInstruction : Prop :=
  ∀ (p : Processor) (w : Word) (i : Instr), decode p w = some i →
    encode i = w &&& examined i ∧ ∀ v, v &&& examined i = w &&& examined i → decode p v = some i

/-- Words written out from the encodings of R92 to R102, some of them printed by the spec (R131, R149, R161). -/
def Obligations.SampleWordsDecode : Prop :=
  decodeMp 0x1005#16 = some (.law false 5) ∧ decodeMp 0x6050#16 = some (.add 0x050) ∧ decodeMp 0xF800#16 = some .hlt ∧
  decodeMp 0x1805#16 = some (.law true 5) ∧ decodeMp 0x2900#16 = some (.jmp 0x900) ∧
  decodeMp 0xA001#16 = some (.skp false false false false false true) ∧
  decodeMp 0xE043#16 = some (.iotKbd true true false) ∧ decodeMp 0xE0C0#16 = some (.iotNone 3) ∧
  decodeDp 0x0E05#16 = some (.dintp 5) ∧ decodeDp 0x3285#16 = some (.dsvec false 10 false 5) ∧
  decodeDp 0x4883#16 = some (.dlvec true 2 false 3) ∧ decodeDp 0x7013#16 = some (.dint7 3) ∧
  decodeDp 0xE285#16 = some (.dsxy 10 5) ∧ decodeDp 0xF800#16 = some .dhlt

/-! ## MP: memory reference and literal -/

/-- R160, R231: NOP, and an IOT whose device code is none of the five, have no effect beyond the fetch. -/
def Obligations.NopAndUnknownDevicesHaveNoEffect : Prop :=
  (∀ w, field w 12 4 = 0x0#4 → decodeMp w = some .nop) ∧ (∀ s, exec .nop s = .next s) ∧
  (∀ s : State, s.halt = false → field (s.readMem s.pc) 12 4 = 0x0#4 →
    mpStep s = .next { s with pc := s.pc + 1, ir := s.readMem s.pc, cyc := s.cyc + 1 }) ∧
  (∀ w, field w 12 4 = 0xE#4 →
    field w 6 6 ≠ 0x01#6 → field w 6 6 ≠ 0x02#6 → field w 6 6 ≠ 0x04#6 → field w 6 6 ≠ 0x10#6 → field w 6 6 ≠ 0x20#6 →
    decodeMp w = some (.iotNone (field w 6 6))) ∧
  (∀ (s : State) (dev : BitVec 6), exec (.iotNone dev) s = .next s) ∧
  ∀ (s : State) (dev : BitVec 6), s.halt = false → decodeMp (s.readMem s.pc) = some (.iotNone dev) →
    mpStep s = .next { s with pc := s.pc + 1, ir := s.readMem s.pc, cyc := s.cyc + 1 }

/-- R161: the literal, or its negation modulo 65536; nothing but AC is written, and AC lies in 0..0x7FF or above 0xF800. -/
def Obligations.LawLoadsLiteralOrItsNegation : Prop :=
  (∀ w, field w 12 4 = 0x1#4 → decodeMp w = some (.law (bit w 11) (field w 0 11))) ∧
  ∀ (s : State) (neg : Bool) (lit : BitVec 11), ∃ t, exec (.law neg lit) s = .next t ∧ t = { s with ac := t.ac } ∧
    t.ac.toNat = (if neg then (0x10000 - lit.toNat) % 0x10000 else lit.toNat) ∧
    (t.ac.toNat ≤ 0x7FF ∨ 0xF801 ≤ t.ac.toNat)

/-- R143: the effective address. With bit 11 clear it is the field itself, below 0x800; with it set it is the low twelve
bits of the pointer cell, which lies at 0x800 or above; there is one level of indirection. -/
def Obligations.EffectiveAddressKeepsTheIndirectOverlap : Prop :=
  ∀ (s : State) (ea0 : Addr),
    (ea0.toNat < 0x800 → s.ea ea0 = ea0) ∧
    (0x800 ≤ ea0.toNat → (s.ea ea0).toNat = (s.readMem ea0).toNat % 4096)

/-- R162, R276: JMP sets PC to the effective address, DJMP sets DP.PC to its address; nothing else changes. -/
def Obligations.JumpsSetTheirProgramCounter : Prop :=
  (∀ w, field w 12 4 = 0x2#4 → decodeMp w = some (.jmp (field w 0 12))) ∧
  (∀ w, field w 12 4 = 0x5#4 → decodeDp w = some (.djmp (field w 0 12))) ∧
  ∀ (s : State) (ea0 addr : Addr),
    exec (.jmp ea0) s = .next { s with pc := s.ea ea0 } ∧ exec (.djmp addr) s = .next { s with dpPc := addr }

/-- R163: AC is stored at the effective address; every other word and every register is as before. -/
def Obligations.DacStoresAcAtEa : Prop :=
  (∀ w, field w 12 4 = 0x3#4 → decodeMp w = some (.dac (field w 0 12))) ∧
  ∀ (s : State) (ea0 : Addr), ∃ t, exec (.dac ea0) s = .next t ∧ t = { s with mem := t.mem } ∧
    t.readMem (s.ea ea0) = s.ac ∧ ∀ b, b ≠ s.ea ea0 → t.readMem b = s.readMem b

/-- R164: AC and the word at the effective address are exchanged. -/
def Obligations.XamExchangesAcAndMemory : Prop :=
  (∀ w, field w 12 4 = 0x4#4 → decodeMp w = some (.xam (field w 0 12))) ∧
  ∀ (s : State) (ea0 : Addr), ∃ t, exec (.xam ea0) s = .next t ∧ t = { s with mem := t.mem, ac := t.ac } ∧
    t.ac = s.readMem (s.ea ea0) ∧ t.readMem (s.ea ea0) = s.ac ∧ ∀ b, b ≠ s.ea ea0 → t.readMem b = s.readMem b

/-- R165: the word at the effective address is incremented modulo 65536; PC skips exactly when bit 15 of the result is 0;
AC and Link are as before. That a skip at PC = 0xFFF wraps to 0x000 (R146) is decision D1. -/
def Obligations.IszIncrementsAndSkipsOnClearBit15 : Prop :=
  (∀ w, field w 12 4 = 0x5#4 → decodeMp w = some (.isz (field w 0 12))) ∧
  ∀ (s : State) (ea0 : Addr), ∃ t, exec (.isz ea0) s = .next t ∧ t = { s with mem := t.mem, pc := t.pc } ∧
    (t.readMem (s.ea ea0)).toNat = ((s.readMem (s.ea ea0)).toNat + 1) % 0x10000 ∧
    (∀ b, b ≠ s.ea ea0 → t.readMem b = s.readMem b) ∧
    t.pc = if (t.readMem (s.ea ea0)).toNat < 0x8000 then s.pc + 1 else s.pc

/-- R166: the exact 17-bit sum goes to Link (bit 16) and AC (bits 15:0); the old Link is lost. -/
def Obligations.AddGivesTheExactSumInLinkAndAc : Prop :=
  (∀ w, field w 12 4 = 0x6#4 → decodeMp w = some (.add (field w 0 12))) ∧
  ∀ (s : State) (ea0 : Addr), ∃ t, exec (.add ea0) s = .next t ∧ t = { s with ac := t.ac, link := t.link } ∧
    t.link.toNat * 0x10000 + t.ac.toNat = s.ac.toNat + (s.readMem (s.ea ea0)).toNat

/-- R167, R168, R170: the bitwise and, the load and the bitwise or write AC alone. -/
def Obligations.AndLdaIorWriteAcAlone : Prop :=
  (∀ w, field w 12 4 = 0x7#4 → decodeMp w = some (.and (field w 0 12))) ∧
  (∀ w, field w 12 4 = 0x8#4 → decodeMp w = some (.lda (field w 0 12))) ∧
  (∀ w, field w 12 4 = 0xB#4 → decodeMp w = some (.ior (field w 0 12))) ∧
  ∀ (s : State) (ea0 : Addr),
    exec (.and ea0) s = .next { s with ac := s.ac &&& s.readMem (s.ea ea0) } ∧
    exec (.lda ea0) s = .next { s with ac := s.readMem (s.ea ea0) } ∧
    exec (.ior ea0) s = .next { s with ac := s.ac ||| s.readMem (s.ea ea0) }

/-- R169: the return address (PC, already advanced) is stored at the effective address with its upper four bits 0, and
control continues one word after it, modulo 4096. -/
def Obligations.JmsStoresReturnAddressAndEnters : Prop :=
  (∀ w, field w 12 4 = 0x9#4 → decodeMp w = some (.jms (field w 0 12))) ∧
  ∀ (s : State) (ea0 : Addr), ∃ t, exec (.jms ea0) s = .next t ∧ t = { s with mem := t.mem, pc := t.pc } ∧
    t.pc.toNat = ((s.ea ea0).toNat + 1) % 4096 ∧ (t.readMem (s.ea ea0)).toNat = s.pc.toNat ∧
    ∀ b, b ≠ s.ea ea0 → t.readMem b = s.readMem b

/-! ## MP: skip and rotate -/

/-- R190 with the condition bits of R95 (decision D4): bits 5 to 0 of every SKP word are invert and the conditions DPH, KEY,
ZLK, PAC, ZAC; PC skips exactly when the OR of the selected conditions differs from the invert bit; nothing else is written.
That the skip wraps PC at 12 bits (R146) is decision D1. -/
def Obligations.SkpSkipsOnSelectedConditions : Prop :=
  (∀ w, field w 12 4 = 0xA#4 →
    decodeMp w = some (.skp (bit w 5) (bit w 4) (bit w 3) (bit w 2) (bit w 1) (bit w 0))) ∧
  ∀ (s : State) (inv dph key zlk pac zac : Bool), ∃ t, exec (.skp inv dph key zlk pac zac) s = .next t ∧
    t = { s with pc := t.pc } ∧
    (t.pc = s.pc + 1 ∧
        (((zac = true ∧ s.ac = 0) ∨ (pac = true ∧ s.ac.toNat < 0x8000) ∨ (zlk = true ∧ s.link = false) ∨
          (key = true ∧ s.keyboard ≠ 0) ∨ (dph = true ∧ s.dpHalt = true)) ↔ inv = false) ∨
      t.pc = s.pc ∧
        (((zac = true ∧ s.ac = 0) ∨ (pac = true ∧ s.ac.toNat < 0x8000) ∨ (zlk = true ∧ s.link = false) ∨
          (key = true ∧ s.keyboard ≠ 0) ∨ (dph = true ∧ s.dpHalt = true)) ↔ inv = true))

/-- R195, R196 with R197 (decision D22): RAL and RAR, their count in bits 7 to 0 of every such word, turn the 17-bit ring Link:AC
by the count, 0 counting as 1. -/
def Obligations.RalAndRarTurnTheSeventeenBitRing : Prop :=
  (∀ w, field w 12 4 = 0xC#4 → decodeMp w = some (.ral (field w 0 8))) ∧
  (∀ w, field w 12 4 = 0xD#4 → decodeMp w = some (.rar (field w 0 8))) ∧
  ∀ (s : State) (n : BitVec 8),
    let k := if n = 0 then 1 else n.toNat
    let ring : BitVec 17 := BitVec.ofBool s.link ++ s.ac
    exec (.ral n) s =
      .next { s with link := (ring.rotateLeft k).getLsbD 16, ac := (ring.rotateLeft k).setWidth 16 } ∧
    exec (.rar n) s =
      .next { s with link := (ring.rotateRight k).getLsbD 16, ac := (ring.rotateRight k).setWidth 16 }

/-- R198 (from R197, decision D22): RAL then RAR of one count restores the state, in either order; a count of 17 changes
nothing; and RAL k is RAR (17 - k) for k from 1 to 16. -/
def Obligations.RotatesAreInverseAndOfOrderSeventeen : Prop :=
  ∀ (s : State) (n : BitVec 8),
    execAll [.ral n, .rar n] s = .next s ∧ execAll [.rar n, .ral n] s = .next s ∧
    exec (.ral 17) s = .next s ∧ exec (.rar 17) s = .next s ∧
    (1 ≤ n.toNat → n.toNat ≤ 16 → exec (.ral n) s = exec (.rar (17 - n)) s)

/-! ## MP: I/O transfer -/

/-- R214 with the order of R211 (decision D5): in every word of device 0x01, bits 0, 1 and 2 select read, clear and test; AC gets
the code before it is cleared, and the test sees the cleared one. That the skip wraps PC at 12 bits (R146) is decision D1. -/
def Obligations.KeyboardFunctionBitsActInOrder : Prop :=
  (∀ w, field w 12 4 = 0xE#4 → field w 6 6 = 0x01#6 → decodeMp w = some (.iotKbd (bit w 0) (bit w 1) (bit w 2))) ∧
  ∀ (s : State) (read clear test : Bool), exec (.iotKbd read clear test) s = .next { s with
    ac := if read then s.keyboard else s.ac
    keyboard := if clear then 0 else s.keyboard
    pc := if test = true ∧ clear = false ∧ s.keyboard ≠ 0 then s.pc + 1 else s.pc }

/-- R218 with the order of R211 (decision D5): in every word of device 0x02, bits 0, 1 and 2 select toggle, then start at the low
twelve bits of AC, then stop. -/
def Obligations.DisplayControlTogglesStartsStops : Prop :=
  (∀ w, field w 12 4 = 0xE#4 → field w 6 6 = 0x02#6 → decodeMp w = some (.iotDpc (bit w 0) (bit w 1) (bit w 2))) ∧
  ∀ (s : State) (toggle start stop : Bool), ∃ t, exec (.iotDpc toggle start stop) s = .next t ∧
    t = { s with dpEnabled := t.dpEnabled, dpHalt := t.dpHalt, dpPc := t.dpPc } ∧
    t.dpEnabled = xor s.dpEnabled toggle ∧ t.dpHalt = (stop || (s.dpHalt && !start)) ∧
    t.dpPc.toNat = if start then s.ac.toNat % 4096 else s.dpPc.toNat

/-- R222 (decision D19 for the code of newline, D36 for the function bits): every word of device 0x04 appends the low seven
bits of AC to the Console if they are 32 or more, or 0x0A; every other code is dropped; nothing else changes. -/
def Obligations.ConsoleOutputAppendsPrintableCodes : Prop :=
  (∀ w, field w 12 4 = 0xE#4 → field w 6 6 = 0x04#6 → decodeMp w = some .iotTty) ∧
  ∀ s : State, exec .iotTty s = .next
    (if 32 ≤ s.ac.toNat % 128 ∨ s.ac.toNat % 128 = 0x0A
      then { s with console := s.console ++ [.char (BitVec.ofNat 7 s.ac.toNat)] } else s)

/-- R225 with the order of R211 (decision D5): in every word of device 0x10, bits 0, 1 and 2 select X, then Y, and the skip on a
hit; the light pen is not written. That the skip wraps PC at 12 bits (R146) is decision D1. -/
def Obligations.LightPenReadsAndTests : Prop :=
  (∀ w, field w 12 4 = 0xE#4 → field w 6 6 = 0x10#6 → decodeMp w = some (.iotLpn (bit w 0) (bit w 1) (bit w 2))) ∧
  ∀ (s : State) (readX readY test : Bool), exec (.iotLpn readX readY test) s = .next { s with
    ac := if readY then s.lightPenY else if readX then s.lightPenX else s.ac
    pc := if test = true ∧ s.lightPenHit = true then s.pc + 1 else s.pc }

/-- R229: AC gets CYC modulo 65536, the count already holding this instruction's own fetch (decision D36: whatever fn is). -/
def Obligations.CycleCounterReadsItsOwnFetch : Prop :=
  (∀ s : State, ∃ t, exec .iotCyc s = .next t ∧ t = { s with ac := t.ac } ∧ t.ac.toNat = s.cyc % 65536) ∧
  ∀ s : State, s.halt = false → field (s.readMem s.pc) 6 10 = 0x3A0#10 →
    ∃ t, mpStep s = .next t ∧ t.cyc = s.cyc + 1 ∧ t.ac.toNat = (s.cyc + 1) % 65536

/-! ## MP: operate -/

/-- R244, R245 (decision D14 for the event, D33 for its PC): every word 0xF800..0xFFFF sets Halt, clears Run and appends the diagnostic with PC (already advanced) and AC; AC,
Link and DP.AC are unchanged whatever the other bits hold. After it the MP's steps do nothing until `powerOn()` clears Halt
or `reset()` gives it its RESET value. -/
def Obligations.HltHaltsAndSuppressesTheRest : Prop :=
  (∀ w : Word, 0xF800 ≤ w.toNat → decodeMp w = some .hlt) ∧
  ∀ s : State, ∃ t, exec .hlt s = .next t ∧
    t = { s with halt := true, run := false, console := s.console ++ [.haltDiag s.pc s.ac] } ∧
    mpStep t = .next t ∧ ∀ r : ResetRecord, (t.powerOnOp r).halt = false ∧ (t.resetOp r).halt = r.mpHalt

/-- R240, R241, R246 to R254 (IAC by decision D6, the rotates by D22): the selected micro-ops act in the order of bits 10 to
2 on AC, Link and DP.AC, as `oprExact` computes them in plain numbers; nothing else changes. Every word with op 0xF and bit 11
clear selects them by these bits (R96). -/
def Obligations.OprAppliesMicroOpsInOrder : Prop :=
  (∀ w, field w 12 4 = 0xF#4 → bit w 11 = false → decodeMp w = some
    (.opr (bit w 10) (bit w 9) (bit w 8) (bit w 7) (bit w 6) (bit w 5) (bit w 4) (bit w 3) (bit w 2))) ∧
  ∀ (s : State) (cla cll cma cml iac stl xda rl1 rr1 : Bool), ∃ t,
    exec (.opr cla cll cma cml iac stl xda rl1 rr1) s = .next t ∧
    t = { s with ac := t.ac, link := t.link, dpAc := t.dpAc } ∧
    (t.ac.toNat, t.link.toNat, t.dpAc.toNat) =
      oprExact cla cll cma cml iac stl xda rl1 rr1 s.ac.toNat s.link.toNat s.dpAc.toNat

/-- R255: the useful combinations, each for every AC, Link and DP.AC (IAC by decision D6, the rotates by D22). -/
def Obligations.UsefulOprCombinations : Prop :=
  ∀ s : State,
    (∃ i, decodeMp 0xF000#16 = some i ∧ exec i s = .next s) ∧
    (∃ i, decodeMp 0xF500#16 = some i ∧ exec i s = .next { s with ac := 0xFFFF#16 }) ∧
    (∃ i, decodeMp 0xF440#16 = some i ∧ exec i s = .next { s with ac := 1#16, link := false }) ∧
    (∃ i, decodeMp 0xF540#16 = some i ∧ exec i s = .next { s with ac := 0#16, link := true }) ∧
    (∃ i, decodeMp 0xF140#16 = some i ∧ exec i s = .next { s with ac := -s.ac, link := decide (s.ac = 0) }) ∧
    (∃ i, decodeMp 0xF340#16 = some i ∧ exec i s = .next { s with ac := -s.ac, link := decide (s.ac = 0) }) ∧
    (∃ i, decodeMp 0xF280#16 = some i ∧ exec i s = .next { s with link := true }) ∧
    (∃ i, decodeMp 0xF208#16 = some i ∧ exec i s = .next { s with ac := s.ac <<< 1, link := s.ac.getLsbD 15 }) ∧
    (∃ i, decodeMp 0xF204#16 = some i ∧ exec i s = .next { s with ac := s.ac >>> 1, link := s.ac.getLsbD 0 }) ∧
    (∃ i, decodeMp 0xF410#16 = some i ∧ exec i s = .next { s with ac := s.dpAc, dpAc := 0#16 }) ∧
    (∃ i, decodeMp 0xF7FC#16 = some i ∧ exec i s = .next { s with ac := s.dpAc, dpAc := 0#16, link := true }) ∧
    decodeMp 0xFFFF#16 = some .hlt

/-! ## DP: control -/

/-- R277 with R273 (decision D24): with room the return address is pushed, on a full stack the push is dropped, and the jump
is taken in both cases. -/
def Obligations.DjmsPushesIfRoomAndAlwaysJumps : Prop :=
  (∀ w, field w 12 4 = 0x6#4 → decodeDp w = some (.djms (field w 0 12))) ∧
  ∀ (s : State) (addr : Addr), ∃ t, exec (.djms addr) s = .next t ∧
    t = { s with dpPc := addr, stk := t.stk, sp := t.sp } ∧
    (∀ h : s.sp.val < 16, t.sp.val = s.sp.val + 1 ∧ t.stk = s.stk.set s.sp.val s.dpPc h) ∧
    (s.sp.val = 16 → t.sp = s.sp ∧ t.stk = s.stk)

/-- R274, R278, R279 (decision D25): both returns pop the top entry into DP.PC, or halt the DP with SP and DP.PC as they
are when the stack is empty. -/
def Obligations.ReturnsPopOrHalt : Prop :=
  (∀ w, field w 12 4 = 0xB#4 → decodeDp w = some .dret) ∧
  (∀ w, field w 12 4 = 0x8#4 → bit w 11 = true → decodeDp w = some .drtn8) ∧
  ∀ (s : State) (i : Instr), i = .dret ∨ i = .drtn8 → ∃ t, exec i s = .next t ∧
    (∀ h : 0 < s.sp.val, t = { s with sp := t.sp, dpPc := s.stk[s.sp.val - 1]'(by omega) } ∧ t.sp.val + 1 = s.sp.val) ∧
    (s.sp = 0 → t = { s with dpHalt := true })

/-- R280, R281: every word 0x8000..0x87FF and 0xF000..0xFFFF halts the DP and changes nothing else. -/
def Obligations.DpHaltsSetDpHaltAlone : Prop :=
  (∀ w : Word, 0x8000 ≤ w.toNat → w.toNat ≤ 0x87FF → decodeDp w = some .dhlt8) ∧
  (∀ w : Word, 0xF000 ≤ w.toNat → decodeDp w = some .dhlt) ∧
  ∀ s : State, exec .dhlt8 s = .next { s with dpHalt := true } ∧ exec .dhlt s = .next { s with dpHalt := true }

/-- R284: from an empty stack, seventeen calls and then seventeen returns, of either kind, leave the DP halted after the
seventeenth return and not before: the stack is sixteen deep. -/
def Obligations.SeventeenCallsAndReturnsHaltTheDp : Prop :=
  ∀ (s : State) (targets : List Addr) (returns : List Instr) (last : Instr), s.sp = 0 → s.dpHalt = false →
    targets.length = 17 → returns.length = 16 → (∀ i ∈ last :: returns, i = .dret ∨ i = .drtn8) →
    ∃ t u, execAll (targets.map .djms ++ returns) s = .next t ∧ t.dpHalt = false ∧ t.sp = 0 ∧
      exec last t = .next u ∧ u.dpHalt = true

/-- R34, R273, R274: calls within the depth return in reverse order: after `n` calls, `n` returns of either kind restore SP,
leave DP.PC as the first call found it, and leave every live stack entry, and all else but dead entries, as before. -/
def Obligations.NestedCallsReturnToTheFirstCaller : Prop :=
  ∀ (s : State) (targets : List Addr) (returns : List Instr), s.sp.val + targets.length ≤ 16 →
    returns.length = targets.length → (∀ i ∈ returns, i = .dret ∨ i = .drtn8) →
    ∃ t, execAll (targets.map .djms ++ returns) s = .next t ∧ t = { s with stk := t.stk } ∧
      ∀ (k : Nat) (h : k < 16), k < s.sp.val → t.stk[k] = s.stk[k]

/-! ## DP: drawing -/

/-- R300 (decision D3), R309, R311, R312 (decisions D17, D20): the three encodings that set Intensity and the one that stores
the Scale selector write that register alone; the selector names 1/4, 1/2, 1, 2. -/
def Obligations.IntensityAndScaleAreStoredAlone : Prop :=
  (∀ w : Word, 0x0E00 ≤ w.toNat → w.toNat ≤ 0x0E07 → decodeDp w = some (.dintp (field w 0 3))) ∧
  (∀ w : Word, field w 11 5 = 0x0E#5 → bit w 4 = true → decodeDp w = some (.dint7 (field w 0 3))) ∧
  (∀ w : Word, field w 12 4 = 0x9#4 → decodeDp w = some (.dint (field w 0 3))) ∧
  (∀ w : Word, field w 12 4 = 0xA#4 → decodeDp w = some (.dscl (field w 0 2))) ∧
  (∀ (s : State) (val : Level) (sel : ScaleSel),
    exec (.dintp val) s = .next { s with intensity := val } ∧ exec (.dint7 val) s = .next { s with intensity := val } ∧
    exec (.dint val) s = .next { s with intensity := val } ∧ exec (.dscl sel) s = .next { s with scaleSel := sel }) ∧
  scaleValue 0 = 1 / 4 ∧ scaleValue 1 = 1 / 2 ∧ scaleValue 2 = 1 ∧ scaleValue 3 = 2

/-- R301 (decision D3), R310: the DP words that do nothing. -/
def Obligations.DpNoOpsDoNothing : Prop :=
  (∀ w : Word, w.toNat < 0x0E00 ∨ 0x0E08 ≤ w.toNat ∧ w.toNat < 0x1000 → decodeDp w = some (.dnop (field w 0 12))) ∧
  (∀ w : Word, field w 11 5 = 0x0E#5 → bit w 4 = false → decodeDp w = some .dnop7) ∧
  ∀ (s : State) (addr : Addr), exec (.dnop addr) s = .next s ∧ exec .dnop7 s = .next s

/-- R302 to R305 (decision D2): both encodings of each load reduce the address modulo 1024. -/
def Obligations.AbsoluteLoadsReduceModulo1024 : Prop :=
  (∀ w, field w 12 4 = 0x1#4 → decodeDp w = some (.dlxa (field w 0 12))) ∧
  (∀ w, field w 12 4 = 0x2#4 → decodeDp w = some (.dlya (field w 0 12))) ∧
  (∀ w, field w 12 4 = 0xC#4 → decodeDp w = some (.dlxb (field w 0 12))) ∧
  (∀ w, field w 12 4 = 0xD#4 → decodeDp w = some (.dlyb (field w 0 12))) ∧
  ∀ (s : State) (addr : Addr),
    exec (.dlxa addr) s = .next { s with x := BitVec.ofNat 10 (addr.toNat % 1024) } ∧
    exec (.dlxb addr) s = .next { s with x := BitVec.ofNat 10 (addr.toNat % 1024) } ∧
    exec (.dlya addr) s = .next { s with y := BitVec.ofNat 10 (addr.toNat % 1024) } ∧
    exec (.dlyb addr) s = .next { s with y := BitVec.ofNat 10 (addr.toNat % 1024) }

/-- R313: X gets bits 10:6 and Y bits 4:0, both unsigned; bits 11 and 5 are ignored. -/
def Obligations.DsxySetsSmallCoordinates : Prop :=
  (∀ w : Word, field w 12 4 = 0xE#4 → decodeDp w = some (.dsxy (field w 6 5) (field w 0 5))) ∧
  ∀ (s : State) (x y : BitVec 5),
    exec (.dsxy x y) s = .next { s with x := BitVec.ofNat 10 x.toNat, y := BitVec.ofNat 10 y.toNat }

/-- R306, R307, R314 (decision D23 for the modulo of a negative sum): the two vector instructions, their signs and magnitudes in
bits 11, 10:6, 5 and 4:0 of every such word (R102), move the beam by sign and
magnitude times 1 or 8, modulo 1024, append the Line from the old to the new position if there is room, and commit the
position whether or not there is. -/
def Obligations.VectorsDrawFromOldToNewPosition : Prop :=
  (∀ w, field w 12 4 = 0x3#4 → decodeDp w = some (.dsvec (bit w 11) (field w 6 5) (bit w 5) (field w 0 5))) ∧
  (∀ w, field w 12 4 = 0x4#4 → decodeDp w = some (.dlvec (bit w 11) (field w 6 5) (bit w 5) (field w 0 5))) ∧
  ∀ (s : State) (sx : Bool) (dx : BitVec 5) (sy : Bool) (dy : BitVec 5) (i : Instr) (m : Int),
    (i = .dsvec sx dx sy dy ∧ m = 1) ∨ (i = .dlvec sx dx sy dy ∧ m = 8) →
    ∃ t, exec i s = .next t ∧ t = { s with x := t.x, y := t.y, dl := t.dl } ∧
      (t.x.toNat : Int) = ((s.x.toNat : Int) + (if sx then -1 else 1) * ((dx.toNat : Int) * m)) % 1024 ∧
      (t.y.toNat : Int) = ((s.y.toNat : Int) + (if sy then -1 else 1) * ((dy.toNat : Int) * m)) % 1024 ∧
      t.dl = if s.dl.length < 32768 then s.dl ++ [.line s.x s.y t.x t.y s.intensity] else s.dl

/-- R308: every word 0x7800..0x7FFF appends the Point at the beam position, if there is room, and changes nothing else. -/
def Obligations.PointIsAppendedAtTheBeam : Prop :=
  (∀ w : Word, 0x7800 ≤ w.toNat → w.toNat ≤ 0x7FFF → decodeDp w = some .dpt) ∧
  ∀ s : State, exec .dpt s = .next
    { s with dl := if s.dl.length < 32768 then s.dl ++ [.point s.x s.y s.intensity] else s.dl }

/-- R320, R321 (decision D15): the eight brightness values, and what the reader of the list sees of an entry. -/
def Obligations.BrightnessTable : Prop :=
  bright 0 = 1 / 20 ∧ bright 1 = 1 / 7 ∧ bright 2 = 2 / 7 ∧ bright 3 = 3 / 7 ∧ bright 4 = 4 / 7 ∧ bright 5 = 5 / 7 ∧
  bright 6 = 6 / 7 ∧ bright 7 = 1 ∧
  (∀ l : Level, 1 / 20 ≤ bright l ∧ bright l ≤ 1) ∧
  ∀ (s : State) (x1 y1 x2 y2 : Coord) (l : Level),
    State.readDisplayList { s with dl := s.dl ++ [.line x1 y1 x2 y2 l, .point x1 y1 l] } =
      s.readDisplayList ++ [.line x1.toNat y1.toNat x2.toNat y2.toNat (bright l), .point x1.toNat y1.toNat (bright l)]

/-- R322, R325: any number of appends to a list within its capacity leaves the first 32768 of the old and new entries, in
order, and nothing else changes. -/
def Obligations.DisplayListKeepsTheFirst32768 : Prop :=
  ∀ (s : State) (entries : List Vec), s.dl.length ≤ 32768 →
    entries.foldl State.dlAppend s = { s with dl := (s.dl ++ entries).take 32768 }

/-- R323: only DP ops 0x3, 0x4 and 0x7 with bit 11 append, each one entry at the end unless the list is full; no
instruction of either processor reorders, edits or removes an entry. -/
def Obligations.OnlyThreeInstructionsAppendEntries : Prop :=
  ∀ (i : Instr) (s t : State), exec i s = .next t →
    (appendsEntry i = false → t.dl = s.dl) ∧
    (appendsEntry i = true → s.dl.length < 32768 → ∃ e, t.dl = s.dl ++ [e]) ∧
    (32768 ≤ s.dl.length → t.dl = s.dl)

/-! ## The cycle of each processor -/

/-- R140, R142: an unhalted MP step is `exec` of the decoded instruction on the state with IR the word, PC one further and
CYC one more. R270, R272: a DP step with its gate open is `exec` of the decoded instruction on the state with DP.PC one
further, and nothing else fetched or counted. With the gate closed the step does nothing. The pending call that selects the
processor is the model's own (log entry 4); that the DP fetch leaves IR and CYC alone is decision D7. -/
def Obligations.StepRunsTheDecodedInstruction : Prop :=
  (∀ (s : State) (i : Instr) (rest : List DriverOp), s.calls = .mpStep :: rest → s.halt = false →
    decodeMp (s.readMem s.pc) = some i →
    step s = exec i { s with calls := rest, ir := s.readMem s.pc, pc := s.pc + 1, cyc := s.cyc + 1 }) ∧
  (∀ (s : State) (i : Instr) (rest : List DriverOp), s.calls = .dpStep :: rest → s.dpEnabled = true → s.dpHalt = false →
    decodeDp (s.readMem s.dpPc) = some i →
    step s = exec i { s with calls := rest, dpPc := s.dpPc + 1 }) ∧
  ∀ (s : State) (rest : List DriverOp),
    (s.calls = .mpStep :: rest ∧ s.halt = true) ∨
      (s.calls = .dpStep :: rest ∧ (s.dpEnabled = false ∨ s.dpHalt = true)) →
    step s = .next { s with calls := rest }

/-- R141 (decision D9: whatever Run is), R271: a halted MP and a DP that is halted or not enabled do nothing; so nothing
changes in an ended state (R349). -/
def Obligations.StoppedProcessorsDoNothing : Prop :=
  (∀ s : State, s.halt = true → mpStep s = .next s) ∧
  (∀ s : State, s.dpEnabled = false ∨ s.dpHalt = true → dpStep s = .next s) ∧
  ∀ s : State, s.ended → mpStep s = .next s ∧ dpStep s = .next s

/-- R147 (from R142, R146 and decisions D1, D4, D5), R283 (with decisions D24, D25 for a full and an empty stack): the program
counter after every instruction of either processor. -/
def Obligations.ProgramCounterTables : Prop :=
  (∀ (s : State) (i : Instr), s.halt = false → decodeMp (s.readMem s.pc) = some i →
    ∃ t, mpStep s = .next t ∧ t.pc = mpNextPc i s) ∧
  ∀ (s : State) (i : Instr), s.dpEnabled = true → s.dpHalt = false → decodeDp (s.readMem s.dpPc) = some i →
    ∃ t, dpStep s = .next t ∧ t.dpPc = dpNextPc i s

/-- R148 (decision D7): CYC counts exactly the MP steps that execute, whatever the instruction; a DP step leaves CYC and IR. -/
def Obligations.CycCountsExecutedMpInstructions : Prop :=
  (∀ s t : State, mpStep s = .next t → t.cyc = if s.halt then s.cyc else s.cyc + 1) ∧
  ∀ s t : State, dpStep s = .next t → t.cyc = s.cyc ∧ t.ir = s.ir

/-- R70, R74: a word stored by any agent is what the next fetch from that address runs, on either processor: placing a word
at the program counter makes the next step run it, on the state after the fetch of R142 or R272 (that the DP fetch leaves IR
and CYC alone is decision D7). -/
def Obligations.StoredWordIsFetchedAtOnce : Prop :=
  ∀ (s : State) (w : Word),
    (∃ i, decodeMp w = some i ∧ step (s.placeMpWord w) =
      exec i { s with mem := s.mem.writeWord s.pc w, halt := false, ir := w, pc := s.pc + 1, cyc := s.cyc + 1 }) ∧
    (∃ i, decodeDp w = some i ∧ step (s.placeDpWord w) =
      exec i { s with mem := s.mem.writeWord s.dpPc w, dpEnabled := true, dpHalt := false, dpPc := s.dpPc + 1 }) ∧
    s.withFetchWord 16 w.toNat = s.placeMpWord w

/-! ## Whole-machine rules -/

/-- R340: every step of the machine, from every state and for every operation of the driver, answers a next state. -/
def Obligations.EveryStepAnswersANextState : Prop :=
  (∀ (op : DriverOp) (s : State), ∃ t, perform op s = .next t) ∧ ∀ s : State, ∃ t, step s = .next t

/-- R351, R358: any list of pending operations is performed in its order, one a step, whatever the list is. -/
def Obligations.AnyScheduleOfOperationsRunsInOrder : Prop :=
  ∀ (ops rest : List DriverOp) (s : State), ∃ t, performAll ops { s with calls := rest } = .next t ∧
    Host.Core.run core ops.length { s with calls := ops ++ rest } = .next t ∧ t.calls = rest

/-- Every step keeps the invariant, from every state that has it. Of its clauses, the canonical stored form of Memory is the
model's own (log entries 1 and 3), the capacity of the list is R36 and R45, and the codes of the Console are R222 with newline
by decision D19 (log entry 21). -/
def Obligations.EveryStepKeepsTheInvariant : Prop :=
  ∀ s t : State, s.Inv → step s = .next t → t.Inv

/-- The invariant holds at reset: Memory in its stored form (log entries 1 and 3), the DisplayList within its capacity (R36,
R45), and only characters the console takes in the Console (R222, decision D19). -/
def Obligations.InvariantHoldsAtReset : Prop := State.reset.Inv

/-- R43, R350: a DP step changes no Memory, no MP register, no input register and no Console, nor DP.AC and DP.Enabled; an
MP step changes none of X, Y, Intensity, Scale, the return stack and the DisplayList. That a DP step leaves IR and CYC is decision
D7 (log entry 14), and that it stores nothing in Memory is the resolution of C6 (log entry 29). -/
def Obligations.ProcessorsReachEachOtherOnlyAsListed : Prop :=
  (∀ s t : State, dpStep s = .next t →
    t.mem = s.mem ∧ s.sameMpRegs t ∧ s.sameHostSide t ∧ t.dpAc = s.dpAc ∧ t.dpEnabled = s.dpEnabled) ∧
  ∀ s t : State, mpStep s = .next t → s.sameBeam t

/-- R43: what a DP step does to all it can reach is decided by that alone: two states that agree on it agree on it after a
DP step, whatever the MP's registers, the input registers and the Console hold. -/
def Obligations.DpIsBlindToMpAndHostState : Prop :=
  ∀ s t s' t' : State, s.sameForDp t → dpStep s = .next s' → dpStep t = .next t' → s'.sameForDp t'

/-- R43: an MP step is blind to X, Y, Intensity, Scale, the return stack and the DisplayList: two states that agree on all
the rest agree on it after an MP step. -/
def Obligations.MpIsBlindToTheBeam : Prop :=
  ∀ s t s' t' : State,
    s.mem = t.mem → s.sameMpRegs t → s.sameDpControl t → s.sameHostSide t →
    mpStep s = .next s' → mpStep t = .next t' →
    s'.mem = t'.mem ∧ s'.sameMpRegs t' ∧ s'.sameDpControl t' ∧ s'.sameHostSide t'

/-- R24, R345: a halted MP stays halted under every operation but `reset()` and `powerOn()`; R282: no DP instruction clears
DP.Halt. -/
def Obligations.OnlyResetAndPowerOnRestartAHaltedMp : Prop :=
  (∀ (op : DriverOp) (s t : State), op ≠ .reset → op ≠ .powerOn → s.halt = true → perform op s = .next t →
    t.halt = true) ∧
  ∀ s t : State, s.dpHalt = true → dpStep s = .next t → t.dpHalt = true

/-- R40: nothing ever removes or alters a Console event: the Console before a step is a prefix of the Console after it, and
only IOT device 0x04 and HLT append. -/
def Obligations.ConsoleIsAppendOnly : Prop :=
  (∀ s t : State, step s = .next t → s.console <+: t.console) ∧
  ∀ (i : Instr) (s t : State), exec i s = .next t → appendsEvent i = false → t.console = s.console

/-- R20 to R40 and R66, the words "written by", for every field of State. PC after the fetch by JMP, JMS and the four that
can skip; AC by the MP instructions of R21; IR and CYC by no instruction after its fetch; Link by ADD, RAL, RAR and OPR; Halt
and Run by HLT; DP.PC after the fetch by IOT 0x02, DJMP, DJMS and the returns; DP.AC by OPR; X and Y by the loads, DSXY and the
vectors; DP.Halt by IOT 0x02, the DP halts and the returns; DP.Enabled by IOT 0x02; Intensity by its three instructions; Scale by
DSCL; SP and the stack by DJMS and the returns; Memory by DAC, XAM, ISZ and JMS, and only the word at the effective address;
the DisplayList by the vectors and DPT; Keyboard by IOT 0x01; the light pen by none; the Console by IOT 0x04 and HLT; the
model's own fields by none. -/
def Obligations.EachPieceOfStateHasItsNamedWriters : Prop :=
  ∀ (i : Instr) (s t : State), exec i s = .next t →
    (storesMemory i = false → t.mem = s.mem) ∧
    (∀ ea0, i = .dac ea0 ∨ i = .xam ea0 ∨ i = .isz ea0 ∨ i = .jms ea0 →
      ∀ b, b ≠ s.ea ea0 → t.readMem b = s.readMem b) ∧
    t.ir = s.ir ∧ t.cyc = s.cyc ∧ t.calls = s.calls ∧ t.asked = s.asked ∧
    (writesPc i = false → t.pc = s.pc) ∧
    (writesAc i = false → t.ac = s.ac) ∧
    (writesDpPc i = false → t.dpPc = s.dpPc) ∧
    (writesX i = false → t.x = s.x) ∧
    (writesY i = false → t.y = s.y) ∧
    (writesDpHalt i = false → t.dpHalt = s.dpHalt) ∧
    (writesIntensity i = false → t.intensity = s.intensity) ∧
    ((∀ sel, i ≠ .dscl sel) → t.scaleSel = s.scaleSel) ∧
    (appendsEntry i = false → t.dl = s.dl) ∧
    (appendsEvent i = false → t.console = s.console) ∧
    (writesLink i = false → t.link = s.link) ∧
    (i ≠ .hlt → t.halt = s.halt ∧ t.run = s.run) ∧
    ((∀ a b c d e f g h k, i ≠ .opr a b c d e f g h k) → t.dpAc = s.dpAc) ∧
    (movesStack i = false → t.sp = s.sp ∧ t.stk = s.stk) ∧
    ((∀ a b c, i ≠ .iotDpc a b c) → t.dpEnabled = s.dpEnabled) ∧
    ((∀ a b c, i ≠ .iotKbd a b c) → t.keyboard = s.keyboard) ∧
    t.lightPenX = s.lightPenX ∧ t.lightPenY = s.lightPenY ∧ t.lightPenHit = s.lightPenHit

/-! ## The assembler -/

/-- R126: `JMP 0x900` assembles to 0x2900, which the MP decodes as a jump through the pointer cell 0x900. R131 with R125 and
R354: the pokes that assemble the source's text store 0x1005, 0x6050 and 0xF800 from 0x050 on, and no
other word; the call returns 3. -/
def Obligations.AssembledExampleIsStoredByPokes : Prop :=
  assemble "JMP 0x900".toList = ([(0x050, 0x2900)], 1) ∧
  (∀ s : State, decodeMp 0x2900#16 = some (.jmp 0x900) ∧ (s.ea 0x900).toNat = (s.readMem 0x900).toNat % 4096) ∧
  (assemble "START: LAW 5\nADD START\nHLT".toList).2 = 3 ∧
  ∀ s : State, ∃ t, performAll (assembleCalls "START: LAW 5\nADD START\nHLT".toList) s = .next t ∧
    t = { s with mem := t.mem } ∧
    t.readMem 0x050 = 0x1005#16 ∧ t.readMem 0x051 = 0x6050#16 ∧ t.readMem 0x052 = 0xF800#16 ∧
    ∀ b, b ≠ 0x050 → b ≠ 0x051 → b ≠ 0x052 → t.readMem b = s.readMem b
end

