-- ==== Sys2Proof/Laws/Memory.lean ====
section
/-! SUPPORT. The laws of Memory: every memory operation keeps the canonical form, a byte or a word just written is read
back, and every other one is left alone (R63). -/

namespace Sys2Proof.Machine

theorem Memory.wf_iff (m : Memory) :
    m.wf = true ↔ m.Pairwise (fun a b => a.1 < b.1) ∧ ∀ c ∈ m, c.1 < Config.memBytes := by
  simp [Memory.wf]

/-- The cells after a byte is stored are the stored one and cells that were there before. -/
theorem Memory.mem_writeByte (m : Memory) (a : Nat) (v : Byte) (c : Host.Cell) (h : c ∈ m.writeByte a v) :
    c = (a, v) ∨ c ∈ m := by
  induction m with
  | nil => simpa [Memory.writeByte] using h
  | cons d rest ih =>
    obtain ⟨k, b⟩ := d
    simp only [Memory.writeByte] at h
    split at h
    · simpa using h
    · split at h
      · rcases List.mem_cons.mp h with h | h
        · exact .inl h
        · exact .inr (List.mem_cons_of_mem _ h)
      · rcases List.mem_cons.mp h with h | h
        · exact .inr (h ▸ List.mem_cons_self)
        · exact (ih h).imp id (List.mem_cons_of_mem _)

theorem Memory.writeByte_rising (m : Memory) (a : Nat) (v : Byte) (h : m.Pairwise fun p q => p.1 < q.1) :
    (m.writeByte a v).Pairwise fun p q => p.1 < q.1 := by
  induction m with
  | nil => simp [Memory.writeByte]
  | cons d rest ih =>
    obtain ⟨k, b⟩ := d
    rw [List.pairwise_cons] at h
    simp only [Memory.writeByte]
    split
    · next hlt =>
      refine List.pairwise_cons.mpr ⟨fun c hc => ?_, List.pairwise_cons.mpr h⟩
      rcases List.mem_cons.mp hc with rfl | hc
      · exact hlt
      · exact lt_trans hlt (h.1 c hc)
    · split
      · next heq => exact List.pairwise_cons.mpr ⟨fun c hc => heq ▸ h.1 c hc, h.2⟩
      · refine List.pairwise_cons.mpr ⟨fun c hc => ?_, ih h.2⟩
        rcases Memory.mem_writeByte rest a v c hc with rfl | hc
        · show k < a
          omega
        · exact h.1 c hc

/-- Storing a byte inside the address space keeps the canonical form. -/
theorem Memory.writeByte_wf (m : Memory) (a : Nat) (v : Byte) (ha : a < Config.memBytes) (h : m.wf = true) :
    (m.writeByte a v).wf = true := by
  rw [Memory.wf_iff] at h ⊢
  refine ⟨Memory.writeByte_rising m a v h.1, fun c hc => ?_⟩
  rcases Memory.mem_writeByte m a v c hc with rfl | hc
  · exact ha
  · exact h.2 c hc

/-- Storing a word keeps the canonical form. -/
theorem Memory.writeWord_wf (m : Memory) (a : Addr) (v : Word) (h : m.wf = true) : (m.writeWord a v).wf = true := by
  have ha := a.isLt
  apply Memory.writeByte_wf _ _ _ (by simp only [Config.memBytes]; omega)
  exact Memory.writeByte_wf _ _ _ (by simp only [Config.memBytes]; omega) h

theorem Memory.lookup_writeByte (m : Memory) (a b : Nat) (v : Byte) :
    (m.writeByte a v).lookup b = if b = a then some v else m.lookup b := by
  induction m with
  | nil => simp [Memory.writeByte, Memory.lookup]
  | cons d rest ih =>
    obtain ⟨k, w⟩ := d
    simp only [Memory.writeByte]
    split
    · simp [Memory.lookup]
    · split
      · next heq => subst heq; by_cases hb : b = a <;> simp [Memory.lookup, hb]
      · next hne =>
        simp only [Memory.lookup, ih]
        by_cases hb : b = k
        · simp [hb, show k ≠ a from fun h => hne h.symm]
        · simp [hb]

theorem Memory.readByte_writeByte (m : Memory) (a b : Nat) (v : Byte) :
    (m.writeByte a v).readByte b = if b = a then v else m.readByte b := by
  simp only [Memory.readByte, Memory.lookup_writeByte]
  split <;> simp

/-- A word just written is read back. -/
@[simp] theorem Memory.readWord_writeWord_same (m : Memory) (a : Addr) (v : Word) :
    (m.writeWord a v).readWord a = v := by
  simp only [Memory.readWord, Memory.writeWord, Memory.readByte_writeByte]
  rw [if_pos trivial, if_neg (by omega), if_pos trivial]
  apply BitVec.eq_of_getLsbD_eq
  intro i hi
  rw [BitVec.getLsbD_append]
  split
  · next h => simp [h]
  · next h => simp [show 8 + (i - 8) = i by omega, show i - 8 < 8 by omega]

/-- Writing a word leaves every other word alone. -/
theorem Memory.readWord_writeWord_other (m : Memory) (a b : Addr) (v : Word) (h : b ≠ a) :
    (m.writeWord a v).readWord b = m.readWord b := by
  have hn : b.toNat ≠ a.toNat := fun e => h (BitVec.eq_of_toNat_eq e)
  simp only [Memory.readWord, Memory.writeWord, Memory.readByte_writeByte]
  rw [if_neg (by omega), if_neg (by omega), if_neg (by omega), if_neg (by omega)]

/-- The read-over-write law of State's Memory. -/
theorem State.readMem_writeMem (s : State) (a b : Addr) (v : Word) :
    (s.writeMem a v).readMem b = if b = a then v else s.readMem b := by
  by_cases h : b = a
  · subst h; simp [State.readMem, State.writeMem]
  · simp [State.readMem, State.writeMem, Memory.readWord_writeWord_other _ _ _ _ h, h]

/-- Memory right after reset, with nothing listed, is canonical. -/
theorem State.reset_mem_wf : State.reset.mem.wf = true := by decide

end Sys2Proof.Machine
end

