-- ==== Sys2Proof/Laws/State.lean ====
section
/-! SUPPORT. What each shared operation does to each field of State, one lemma a field, so that no proof unfolds a
record update. The fields that a push, a return or an append changes by cases have their lemmas in Laws/Ops.lean. -/

namespace Sys2Proof.Machine

variable (s : State)

-- State.writeMem
@[simp] theorem State.writeMem_pc (a : Addr) (v : Word) : (s.writeMem a v).pc = s.pc := rfl
@[simp] theorem State.writeMem_ac (a : Addr) (v : Word) : (s.writeMem a v).ac = s.ac := rfl
@[simp] theorem State.writeMem_ir (a : Addr) (v : Word) : (s.writeMem a v).ir = s.ir := rfl
@[simp] theorem State.writeMem_link (a : Addr) (v : Word) : (s.writeMem a v).link = s.link := rfl
@[simp] theorem State.writeMem_halt (a : Addr) (v : Word) : (s.writeMem a v).halt = s.halt := rfl
@[simp] theorem State.writeMem_run (a : Addr) (v : Word) : (s.writeMem a v).run = s.run := rfl
@[simp] theorem State.writeMem_cyc (a : Addr) (v : Word) : (s.writeMem a v).cyc = s.cyc := rfl
@[simp] theorem State.writeMem_dpPc (a : Addr) (v : Word) : (s.writeMem a v).dpPc = s.dpPc := rfl
@[simp] theorem State.writeMem_dpAc (a : Addr) (v : Word) : (s.writeMem a v).dpAc = s.dpAc := rfl
@[simp] theorem State.writeMem_x (a : Addr) (v : Word) : (s.writeMem a v).x = s.x := rfl
@[simp] theorem State.writeMem_y (a : Addr) (v : Word) : (s.writeMem a v).y = s.y := rfl
@[simp] theorem State.writeMem_dpHalt (a : Addr) (v : Word) : (s.writeMem a v).dpHalt = s.dpHalt := rfl
@[simp] theorem State.writeMem_dpEnabled (a : Addr) (v : Word) : (s.writeMem a v).dpEnabled = s.dpEnabled := rfl
@[simp] theorem State.writeMem_intensity (a : Addr) (v : Word) : (s.writeMem a v).intensity = s.intensity := rfl
@[simp] theorem State.writeMem_scaleSel (a : Addr) (v : Word) : (s.writeMem a v).scaleSel = s.scaleSel := rfl
@[simp] theorem State.writeMem_stk (a : Addr) (v : Word) : (s.writeMem a v).stk = s.stk := rfl
@[simp] theorem State.writeMem_sp (a : Addr) (v : Word) : (s.writeMem a v).sp = s.sp := rfl
@[simp] theorem State.writeMem_mem (a : Addr) (v : Word) : (s.writeMem a v).mem = s.mem.writeWord a v := rfl
@[simp] theorem State.writeMem_dl (a : Addr) (v : Word) : (s.writeMem a v).dl = s.dl := rfl
@[simp] theorem State.writeMem_keyboard (a : Addr) (v : Word) : (s.writeMem a v).keyboard = s.keyboard := rfl
@[simp] theorem State.writeMem_lightPenX (a : Addr) (v : Word) : (s.writeMem a v).lightPenX = s.lightPenX := rfl
@[simp] theorem State.writeMem_lightPenY (a : Addr) (v : Word) : (s.writeMem a v).lightPenY = s.lightPenY := rfl
@[simp] theorem State.writeMem_lightPenHit (a : Addr) (v : Word) : (s.writeMem a v).lightPenHit = s.lightPenHit := rfl
@[simp] theorem State.writeMem_console (a : Addr) (v : Word) : (s.writeMem a v).console = s.console := rfl
@[simp] theorem State.writeMem_calls (a : Addr) (v : Word) : (s.writeMem a v).calls = s.calls := rfl
@[simp] theorem State.writeMem_asked (a : Addr) (v : Word) : (s.writeMem a v).asked = s.asked := rfl

-- State.skip
@[simp] theorem State.skip_pc : s.skip.pc = s.pc + 1 := rfl
@[simp] theorem State.skip_ac : s.skip.ac = s.ac := rfl
@[simp] theorem State.skip_ir : s.skip.ir = s.ir := rfl
@[simp] theorem State.skip_link : s.skip.link = s.link := rfl
@[simp] theorem State.skip_halt : s.skip.halt = s.halt := rfl
@[simp] theorem State.skip_run : s.skip.run = s.run := rfl
@[simp] theorem State.skip_cyc : s.skip.cyc = s.cyc := rfl
@[simp] theorem State.skip_dpPc : s.skip.dpPc = s.dpPc := rfl
@[simp] theorem State.skip_dpAc : s.skip.dpAc = s.dpAc := rfl
@[simp] theorem State.skip_x : s.skip.x = s.x := rfl
@[simp] theorem State.skip_y : s.skip.y = s.y := rfl
@[simp] theorem State.skip_dpHalt : s.skip.dpHalt = s.dpHalt := rfl
@[simp] theorem State.skip_dpEnabled : s.skip.dpEnabled = s.dpEnabled := rfl
@[simp] theorem State.skip_intensity : s.skip.intensity = s.intensity := rfl
@[simp] theorem State.skip_scaleSel : s.skip.scaleSel = s.scaleSel := rfl
@[simp] theorem State.skip_stk : s.skip.stk = s.stk := rfl
@[simp] theorem State.skip_sp : s.skip.sp = s.sp := rfl
@[simp] theorem State.skip_mem : s.skip.mem = s.mem := rfl
@[simp] theorem State.skip_dl : s.skip.dl = s.dl := rfl
@[simp] theorem State.skip_keyboard : s.skip.keyboard = s.keyboard := rfl
@[simp] theorem State.skip_lightPenX : s.skip.lightPenX = s.lightPenX := rfl
@[simp] theorem State.skip_lightPenY : s.skip.lightPenY = s.lightPenY := rfl
@[simp] theorem State.skip_lightPenHit : s.skip.lightPenHit = s.lightPenHit := rfl
@[simp] theorem State.skip_console : s.skip.console = s.console := rfl
@[simp] theorem State.skip_calls : s.skip.calls = s.calls := rfl
@[simp] theorem State.skip_asked : s.skip.asked = s.asked := rfl

-- State.skipIf
@[simp] theorem State.skipIf_pc (c : Bool) : (s.skipIf c).pc = if c then s.pc + 1 else s.pc := by cases c <;> rfl
@[simp] theorem State.skipIf_ac (c : Bool) : (s.skipIf c).ac = s.ac := by cases c <;> rfl
@[simp] theorem State.skipIf_ir (c : Bool) : (s.skipIf c).ir = s.ir := by cases c <;> rfl
@[simp] theorem State.skipIf_link (c : Bool) : (s.skipIf c).link = s.link := by cases c <;> rfl
@[simp] theorem State.skipIf_halt (c : Bool) : (s.skipIf c).halt = s.halt := by cases c <;> rfl
@[simp] theorem State.skipIf_run (c : Bool) : (s.skipIf c).run = s.run := by cases c <;> rfl
@[simp] theorem State.skipIf_cyc (c : Bool) : (s.skipIf c).cyc = s.cyc := by cases c <;> rfl
@[simp] theorem State.skipIf_dpPc (c : Bool) : (s.skipIf c).dpPc = s.dpPc := by cases c <;> rfl
@[simp] theorem State.skipIf_dpAc (c : Bool) : (s.skipIf c).dpAc = s.dpAc := by cases c <;> rfl
@[simp] theorem State.skipIf_x (c : Bool) : (s.skipIf c).x = s.x := by cases c <;> rfl
@[simp] theorem State.skipIf_y (c : Bool) : (s.skipIf c).y = s.y := by cases c <;> rfl
@[simp] theorem State.skipIf_dpHalt (c : Bool) : (s.skipIf c).dpHalt = s.dpHalt := by cases c <;> rfl
@[simp] theorem State.skipIf_dpEnabled (c : Bool) : (s.skipIf c).dpEnabled = s.dpEnabled := by cases c <;> rfl
@[simp] theorem State.skipIf_intensity (c : Bool) : (s.skipIf c).intensity = s.intensity := by cases c <;> rfl
@[simp] theorem State.skipIf_scaleSel (c : Bool) : (s.skipIf c).scaleSel = s.scaleSel := by cases c <;> rfl
@[simp] theorem State.skipIf_stk (c : Bool) : (s.skipIf c).stk = s.stk := by cases c <;> rfl
@[simp] theorem State.skipIf_sp (c : Bool) : (s.skipIf c).sp = s.sp := by cases c <;> rfl
@[simp] theorem State.skipIf_mem (c : Bool) : (s.skipIf c).mem = s.mem := by cases c <;> rfl
@[simp] theorem State.skipIf_dl (c : Bool) : (s.skipIf c).dl = s.dl := by cases c <;> rfl
@[simp] theorem State.skipIf_keyboard (c : Bool) : (s.skipIf c).keyboard = s.keyboard := by cases c <;> rfl
@[simp] theorem State.skipIf_lightPenX (c : Bool) : (s.skipIf c).lightPenX = s.lightPenX := by cases c <;> rfl
@[simp] theorem State.skipIf_lightPenY (c : Bool) : (s.skipIf c).lightPenY = s.lightPenY := by cases c <;> rfl
@[simp] theorem State.skipIf_lightPenHit (c : Bool) : (s.skipIf c).lightPenHit = s.lightPenHit := by cases c <;> rfl
@[simp] theorem State.skipIf_console (c : Bool) : (s.skipIf c).console = s.console := by cases c <;> rfl
@[simp] theorem State.skipIf_calls (c : Bool) : (s.skipIf c).calls = s.calls := by cases c <;> rfl
@[simp] theorem State.skipIf_asked (c : Bool) : (s.skipIf c).asked = s.asked := by cases c <;> rfl

-- State.setLinkAc
@[simp] theorem State.setLinkAc_pc (r : Bool × Word) : (s.setLinkAc r).pc = s.pc := rfl
@[simp] theorem State.setLinkAc_ac (r : Bool × Word) : (s.setLinkAc r).ac = r.2 := rfl
@[simp] theorem State.setLinkAc_ir (r : Bool × Word) : (s.setLinkAc r).ir = s.ir := rfl
@[simp] theorem State.setLinkAc_link (r : Bool × Word) : (s.setLinkAc r).link = r.1 := rfl
@[simp] theorem State.setLinkAc_halt (r : Bool × Word) : (s.setLinkAc r).halt = s.halt := rfl
@[simp] theorem State.setLinkAc_run (r : Bool × Word) : (s.setLinkAc r).run = s.run := rfl
@[simp] theorem State.setLinkAc_cyc (r : Bool × Word) : (s.setLinkAc r).cyc = s.cyc := rfl
@[simp] theorem State.setLinkAc_dpPc (r : Bool × Word) : (s.setLinkAc r).dpPc = s.dpPc := rfl
@[simp] theorem State.setLinkAc_dpAc (r : Bool × Word) : (s.setLinkAc r).dpAc = s.dpAc := rfl
@[simp] theorem State.setLinkAc_x (r : Bool × Word) : (s.setLinkAc r).x = s.x := rfl
@[simp] theorem State.setLinkAc_y (r : Bool × Word) : (s.setLinkAc r).y = s.y := rfl
@[simp] theorem State.setLinkAc_dpHalt (r : Bool × Word) : (s.setLinkAc r).dpHalt = s.dpHalt := rfl
@[simp] theorem State.setLinkAc_dpEnabled (r : Bool × Word) : (s.setLinkAc r).dpEnabled = s.dpEnabled := rfl
@[simp] theorem State.setLinkAc_intensity (r : Bool × Word) : (s.setLinkAc r).intensity = s.intensity := rfl
@[simp] theorem State.setLinkAc_scaleSel (r : Bool × Word) : (s.setLinkAc r).scaleSel = s.scaleSel := rfl
@[simp] theorem State.setLinkAc_stk (r : Bool × Word) : (s.setLinkAc r).stk = s.stk := rfl
@[simp] theorem State.setLinkAc_sp (r : Bool × Word) : (s.setLinkAc r).sp = s.sp := rfl
@[simp] theorem State.setLinkAc_mem (r : Bool × Word) : (s.setLinkAc r).mem = s.mem := rfl
@[simp] theorem State.setLinkAc_dl (r : Bool × Word) : (s.setLinkAc r).dl = s.dl := rfl
@[simp] theorem State.setLinkAc_keyboard (r : Bool × Word) : (s.setLinkAc r).keyboard = s.keyboard := rfl
@[simp] theorem State.setLinkAc_lightPenX (r : Bool × Word) : (s.setLinkAc r).lightPenX = s.lightPenX := rfl
@[simp] theorem State.setLinkAc_lightPenY (r : Bool × Word) : (s.setLinkAc r).lightPenY = s.lightPenY := rfl
@[simp] theorem State.setLinkAc_lightPenHit (r : Bool × Word) : (s.setLinkAc r).lightPenHit = s.lightPenHit := rfl
@[simp] theorem State.setLinkAc_console (r : Bool × Word) : (s.setLinkAc r).console = s.console := rfl
@[simp] theorem State.setLinkAc_calls (r : Bool × Word) : (s.setLinkAc r).calls = s.calls := rfl
@[simp] theorem State.setLinkAc_asked (r : Bool × Word) : (s.setLinkAc r).asked = s.asked := rfl

-- State.consoleAppend
@[simp] theorem State.consoleAppend_pc (ev : ConsoleEvent) : (s.consoleAppend ev).pc = s.pc := rfl
@[simp] theorem State.consoleAppend_ac (ev : ConsoleEvent) : (s.consoleAppend ev).ac = s.ac := rfl
@[simp] theorem State.consoleAppend_ir (ev : ConsoleEvent) : (s.consoleAppend ev).ir = s.ir := rfl
@[simp] theorem State.consoleAppend_link (ev : ConsoleEvent) : (s.consoleAppend ev).link = s.link := rfl
@[simp] theorem State.consoleAppend_halt (ev : ConsoleEvent) : (s.consoleAppend ev).halt = s.halt := rfl
@[simp] theorem State.consoleAppend_run (ev : ConsoleEvent) : (s.consoleAppend ev).run = s.run := rfl
@[simp] theorem State.consoleAppend_cyc (ev : ConsoleEvent) : (s.consoleAppend ev).cyc = s.cyc := rfl
@[simp] theorem State.consoleAppend_dpPc (ev : ConsoleEvent) : (s.consoleAppend ev).dpPc = s.dpPc := rfl
@[simp] theorem State.consoleAppend_dpAc (ev : ConsoleEvent) : (s.consoleAppend ev).dpAc = s.dpAc := rfl
@[simp] theorem State.consoleAppend_x (ev : ConsoleEvent) : (s.consoleAppend ev).x = s.x := rfl
@[simp] theorem State.consoleAppend_y (ev : ConsoleEvent) : (s.consoleAppend ev).y = s.y := rfl
@[simp] theorem State.consoleAppend_dpHalt (ev : ConsoleEvent) : (s.consoleAppend ev).dpHalt = s.dpHalt := rfl
@[simp] theorem State.consoleAppend_dpEnabled (ev : ConsoleEvent) : (s.consoleAppend ev).dpEnabled = s.dpEnabled := rfl
@[simp] theorem State.consoleAppend_intensity (ev : ConsoleEvent) : (s.consoleAppend ev).intensity = s.intensity := rfl
@[simp] theorem State.consoleAppend_scaleSel (ev : ConsoleEvent) : (s.consoleAppend ev).scaleSel = s.scaleSel := rfl
@[simp] theorem State.consoleAppend_stk (ev : ConsoleEvent) : (s.consoleAppend ev).stk = s.stk := rfl
@[simp] theorem State.consoleAppend_sp (ev : ConsoleEvent) : (s.consoleAppend ev).sp = s.sp := rfl
@[simp] theorem State.consoleAppend_mem (ev : ConsoleEvent) : (s.consoleAppend ev).mem = s.mem := rfl
@[simp] theorem State.consoleAppend_dl (ev : ConsoleEvent) : (s.consoleAppend ev).dl = s.dl := rfl
@[simp] theorem State.consoleAppend_keyboard (ev : ConsoleEvent) : (s.consoleAppend ev).keyboard = s.keyboard := rfl
@[simp] theorem State.consoleAppend_lightPenX (ev : ConsoleEvent) : (s.consoleAppend ev).lightPenX = s.lightPenX := rfl
@[simp] theorem State.consoleAppend_lightPenY (ev : ConsoleEvent) : (s.consoleAppend ev).lightPenY = s.lightPenY := rfl
@[simp] theorem State.consoleAppend_lightPenHit (ev : ConsoleEvent) : (s.consoleAppend ev).lightPenHit = s.lightPenHit := rfl
@[simp] theorem State.consoleAppend_console (ev : ConsoleEvent) : (s.consoleAppend ev).console = s.console ++ [ev] := rfl
@[simp] theorem State.consoleAppend_calls (ev : ConsoleEvent) : (s.consoleAppend ev).calls = s.calls := rfl
@[simp] theorem State.consoleAppend_asked (ev : ConsoleEvent) : (s.consoleAppend ev).asked = s.asked := rfl

-- State.haltMp
@[simp] theorem State.haltMp_pc : s.haltMp.pc = s.pc := rfl
@[simp] theorem State.haltMp_ac : s.haltMp.ac = s.ac := rfl
@[simp] theorem State.haltMp_ir : s.haltMp.ir = s.ir := rfl
@[simp] theorem State.haltMp_link : s.haltMp.link = s.link := rfl
@[simp] theorem State.haltMp_halt : s.haltMp.halt = true := rfl
@[simp] theorem State.haltMp_run : s.haltMp.run = false := rfl
@[simp] theorem State.haltMp_cyc : s.haltMp.cyc = s.cyc := rfl
@[simp] theorem State.haltMp_dpPc : s.haltMp.dpPc = s.dpPc := rfl
@[simp] theorem State.haltMp_dpAc : s.haltMp.dpAc = s.dpAc := rfl
@[simp] theorem State.haltMp_x : s.haltMp.x = s.x := rfl
@[simp] theorem State.haltMp_y : s.haltMp.y = s.y := rfl
@[simp] theorem State.haltMp_dpHalt : s.haltMp.dpHalt = s.dpHalt := rfl
@[simp] theorem State.haltMp_dpEnabled : s.haltMp.dpEnabled = s.dpEnabled := rfl
@[simp] theorem State.haltMp_intensity : s.haltMp.intensity = s.intensity := rfl
@[simp] theorem State.haltMp_scaleSel : s.haltMp.scaleSel = s.scaleSel := rfl
@[simp] theorem State.haltMp_stk : s.haltMp.stk = s.stk := rfl
@[simp] theorem State.haltMp_sp : s.haltMp.sp = s.sp := rfl
@[simp] theorem State.haltMp_mem : s.haltMp.mem = s.mem := rfl
@[simp] theorem State.haltMp_dl : s.haltMp.dl = s.dl := rfl
@[simp] theorem State.haltMp_keyboard : s.haltMp.keyboard = s.keyboard := rfl
@[simp] theorem State.haltMp_lightPenX : s.haltMp.lightPenX = s.lightPenX := rfl
@[simp] theorem State.haltMp_lightPenY : s.haltMp.lightPenY = s.lightPenY := rfl
@[simp] theorem State.haltMp_lightPenHit : s.haltMp.lightPenHit = s.lightPenHit := rfl
@[simp] theorem State.haltMp_console : s.haltMp.console = s.console ++ [.haltDiag s.pc s.ac] := rfl
@[simp] theorem State.haltMp_calls : s.haltMp.calls = s.calls := rfl
@[simp] theorem State.haltMp_asked : s.haltMp.asked = s.asked := rfl

-- State.haltDp
@[simp] theorem State.haltDp_pc : s.haltDp.pc = s.pc := rfl
@[simp] theorem State.haltDp_ac : s.haltDp.ac = s.ac := rfl
@[simp] theorem State.haltDp_ir : s.haltDp.ir = s.ir := rfl
@[simp] theorem State.haltDp_link : s.haltDp.link = s.link := rfl
@[simp] theorem State.haltDp_halt : s.haltDp.halt = s.halt := rfl
@[simp] theorem State.haltDp_run : s.haltDp.run = s.run := rfl
@[simp] theorem State.haltDp_cyc : s.haltDp.cyc = s.cyc := rfl
@[simp] theorem State.haltDp_dpPc : s.haltDp.dpPc = s.dpPc := rfl
@[simp] theorem State.haltDp_dpAc : s.haltDp.dpAc = s.dpAc := rfl
@[simp] theorem State.haltDp_x : s.haltDp.x = s.x := rfl
@[simp] theorem State.haltDp_y : s.haltDp.y = s.y := rfl
@[simp] theorem State.haltDp_dpHalt : s.haltDp.dpHalt = true := rfl
@[simp] theorem State.haltDp_dpEnabled : s.haltDp.dpEnabled = s.dpEnabled := rfl
@[simp] theorem State.haltDp_intensity : s.haltDp.intensity = s.intensity := rfl
@[simp] theorem State.haltDp_scaleSel : s.haltDp.scaleSel = s.scaleSel := rfl
@[simp] theorem State.haltDp_stk : s.haltDp.stk = s.stk := rfl
@[simp] theorem State.haltDp_sp : s.haltDp.sp = s.sp := rfl
@[simp] theorem State.haltDp_mem : s.haltDp.mem = s.mem := rfl
@[simp] theorem State.haltDp_dl : s.haltDp.dl = s.dl := rfl
@[simp] theorem State.haltDp_keyboard : s.haltDp.keyboard = s.keyboard := rfl
@[simp] theorem State.haltDp_lightPenX : s.haltDp.lightPenX = s.lightPenX := rfl
@[simp] theorem State.haltDp_lightPenY : s.haltDp.lightPenY = s.lightPenY := rfl
@[simp] theorem State.haltDp_lightPenHit : s.haltDp.lightPenHit = s.lightPenHit := rfl
@[simp] theorem State.haltDp_console : s.haltDp.console = s.console := rfl
@[simp] theorem State.haltDp_calls : s.haltDp.calls = s.calls := rfl
@[simp] theorem State.haltDp_asked : s.haltDp.asked = s.asked := rfl

-- State.push
@[simp] theorem State.push_pc (v : Addr) : (s.push v).pc = s.pc := by unfold State.push; split <;> rfl
@[simp] theorem State.push_ac (v : Addr) : (s.push v).ac = s.ac := by unfold State.push; split <;> rfl
@[simp] theorem State.push_ir (v : Addr) : (s.push v).ir = s.ir := by unfold State.push; split <;> rfl
@[simp] theorem State.push_link (v : Addr) : (s.push v).link = s.link := by unfold State.push; split <;> rfl
@[simp] theorem State.push_halt (v : Addr) : (s.push v).halt = s.halt := by unfold State.push; split <;> rfl
@[simp] theorem State.push_run (v : Addr) : (s.push v).run = s.run := by unfold State.push; split <;> rfl
@[simp] theorem State.push_cyc (v : Addr) : (s.push v).cyc = s.cyc := by unfold State.push; split <;> rfl
@[simp] theorem State.push_dpPc (v : Addr) : (s.push v).dpPc = s.dpPc := by unfold State.push; split <;> rfl
@[simp] theorem State.push_dpAc (v : Addr) : (s.push v).dpAc = s.dpAc := by unfold State.push; split <;> rfl
@[simp] theorem State.push_x (v : Addr) : (s.push v).x = s.x := by unfold State.push; split <;> rfl
@[simp] theorem State.push_y (v : Addr) : (s.push v).y = s.y := by unfold State.push; split <;> rfl
@[simp] theorem State.push_dpHalt (v : Addr) : (s.push v).dpHalt = s.dpHalt := by unfold State.push; split <;> rfl
@[simp] theorem State.push_dpEnabled (v : Addr) : (s.push v).dpEnabled = s.dpEnabled := by unfold State.push; split <;> rfl
@[simp] theorem State.push_intensity (v : Addr) : (s.push v).intensity = s.intensity := by unfold State.push; split <;> rfl
@[simp] theorem State.push_scaleSel (v : Addr) : (s.push v).scaleSel = s.scaleSel := by unfold State.push; split <;> rfl
@[simp] theorem State.push_mem (v : Addr) : (s.push v).mem = s.mem := by unfold State.push; split <;> rfl
@[simp] theorem State.push_dl (v : Addr) : (s.push v).dl = s.dl := by unfold State.push; split <;> rfl
@[simp] theorem State.push_keyboard (v : Addr) : (s.push v).keyboard = s.keyboard := by unfold State.push; split <;> rfl
@[simp] theorem State.push_lightPenX (v : Addr) : (s.push v).lightPenX = s.lightPenX := by unfold State.push; split <;> rfl
@[simp] theorem State.push_lightPenY (v : Addr) : (s.push v).lightPenY = s.lightPenY := by unfold State.push; split <;> rfl
@[simp] theorem State.push_lightPenHit (v : Addr) : (s.push v).lightPenHit = s.lightPenHit := by unfold State.push; split <;> rfl
@[simp] theorem State.push_console (v : Addr) : (s.push v).console = s.console := by unfold State.push; split <;> rfl
@[simp] theorem State.push_calls (v : Addr) : (s.push v).calls = s.calls := by unfold State.push; split <;> rfl
@[simp] theorem State.push_asked (v : Addr) : (s.push v).asked = s.asked := by unfold State.push; split <;> rfl

-- State.ret
@[simp] theorem State.ret_pc : s.ret.pc = s.pc := by unfold State.ret; split <;> rfl
@[simp] theorem State.ret_ac : s.ret.ac = s.ac := by unfold State.ret; split <;> rfl
@[simp] theorem State.ret_ir : s.ret.ir = s.ir := by unfold State.ret; split <;> rfl
@[simp] theorem State.ret_link : s.ret.link = s.link := by unfold State.ret; split <;> rfl
@[simp] theorem State.ret_halt : s.ret.halt = s.halt := by unfold State.ret; split <;> rfl
@[simp] theorem State.ret_run : s.ret.run = s.run := by unfold State.ret; split <;> rfl
@[simp] theorem State.ret_cyc : s.ret.cyc = s.cyc := by unfold State.ret; split <;> rfl
@[simp] theorem State.ret_dpAc : s.ret.dpAc = s.dpAc := by unfold State.ret; split <;> rfl
@[simp] theorem State.ret_x : s.ret.x = s.x := by unfold State.ret; split <;> rfl
@[simp] theorem State.ret_y : s.ret.y = s.y := by unfold State.ret; split <;> rfl
@[simp] theorem State.ret_dpEnabled : s.ret.dpEnabled = s.dpEnabled := by unfold State.ret; split <;> rfl
@[simp] theorem State.ret_intensity : s.ret.intensity = s.intensity := by unfold State.ret; split <;> rfl
@[simp] theorem State.ret_scaleSel : s.ret.scaleSel = s.scaleSel := by unfold State.ret; split <;> rfl
@[simp] theorem State.ret_stk : s.ret.stk = s.stk := by unfold State.ret; split <;> rfl
@[simp] theorem State.ret_mem : s.ret.mem = s.mem := by unfold State.ret; split <;> rfl
@[simp] theorem State.ret_dl : s.ret.dl = s.dl := by unfold State.ret; split <;> rfl
@[simp] theorem State.ret_keyboard : s.ret.keyboard = s.keyboard := by unfold State.ret; split <;> rfl
@[simp] theorem State.ret_lightPenX : s.ret.lightPenX = s.lightPenX := by unfold State.ret; split <;> rfl
@[simp] theorem State.ret_lightPenY : s.ret.lightPenY = s.lightPenY := by unfold State.ret; split <;> rfl
@[simp] theorem State.ret_lightPenHit : s.ret.lightPenHit = s.lightPenHit := by unfold State.ret; split <;> rfl
@[simp] theorem State.ret_console : s.ret.console = s.console := by unfold State.ret; split <;> rfl
@[simp] theorem State.ret_calls : s.ret.calls = s.calls := by unfold State.ret; split <;> rfl
@[simp] theorem State.ret_asked : s.ret.asked = s.asked := by unfold State.ret; split <;> rfl

-- State.dlAppend
@[simp] theorem State.dlAppend_pc (e : Vec) : (s.dlAppend e).pc = s.pc := by unfold State.dlAppend; split <;> rfl
@[simp] theorem State.dlAppend_ac (e : Vec) : (s.dlAppend e).ac = s.ac := by unfold State.dlAppend; split <;> rfl
@[simp] theorem State.dlAppend_ir (e : Vec) : (s.dlAppend e).ir = s.ir := by unfold State.dlAppend; split <;> rfl
@[simp] theorem State.dlAppend_link (e : Vec) : (s.dlAppend e).link = s.link := by unfold State.dlAppend; split <;> rfl
@[simp] theorem State.dlAppend_halt (e : Vec) : (s.dlAppend e).halt = s.halt := by unfold State.dlAppend; split <;> rfl
@[simp] theorem State.dlAppend_run (e : Vec) : (s.dlAppend e).run = s.run := by unfold State.dlAppend; split <;> rfl
@[simp] theorem State.dlAppend_cyc (e : Vec) : (s.dlAppend e).cyc = s.cyc := by unfold State.dlAppend; split <;> rfl
@[simp] theorem State.dlAppend_dpPc (e : Vec) : (s.dlAppend e).dpPc = s.dpPc := by unfold State.dlAppend; split <;> rfl
@[simp] theorem State.dlAppend_dpAc (e : Vec) : (s.dlAppend e).dpAc = s.dpAc := by unfold State.dlAppend; split <;> rfl
@[simp] theorem State.dlAppend_x (e : Vec) : (s.dlAppend e).x = s.x := by unfold State.dlAppend; split <;> rfl
@[simp] theorem State.dlAppend_y (e : Vec) : (s.dlAppend e).y = s.y := by unfold State.dlAppend; split <;> rfl
@[simp] theorem State.dlAppend_dpHalt (e : Vec) : (s.dlAppend e).dpHalt = s.dpHalt := by unfold State.dlAppend; split <;> rfl
@[simp] theorem State.dlAppend_dpEnabled (e : Vec) : (s.dlAppend e).dpEnabled = s.dpEnabled := by unfold State.dlAppend; split <;> rfl
@[simp] theorem State.dlAppend_intensity (e : Vec) : (s.dlAppend e).intensity = s.intensity := by unfold State.dlAppend; split <;> rfl
@[simp] theorem State.dlAppend_scaleSel (e : Vec) : (s.dlAppend e).scaleSel = s.scaleSel := by unfold State.dlAppend; split <;> rfl
@[simp] theorem State.dlAppend_stk (e : Vec) : (s.dlAppend e).stk = s.stk := by unfold State.dlAppend; split <;> rfl
@[simp] theorem State.dlAppend_sp (e : Vec) : (s.dlAppend e).sp = s.sp := by unfold State.dlAppend; split <;> rfl
@[simp] theorem State.dlAppend_mem (e : Vec) : (s.dlAppend e).mem = s.mem := by unfold State.dlAppend; split <;> rfl
@[simp] theorem State.dlAppend_dl (e : Vec) : (s.dlAppend e).dl = if s.dl.length < Config.maxVec then s.dl ++ [e] else s.dl := by unfold State.dlAppend; split <;> rfl
@[simp] theorem State.dlAppend_keyboard (e : Vec) : (s.dlAppend e).keyboard = s.keyboard := by unfold State.dlAppend; split <;> rfl
@[simp] theorem State.dlAppend_lightPenX (e : Vec) : (s.dlAppend e).lightPenX = s.lightPenX := by unfold State.dlAppend; split <;> rfl
@[simp] theorem State.dlAppend_lightPenY (e : Vec) : (s.dlAppend e).lightPenY = s.lightPenY := by unfold State.dlAppend; split <;> rfl
@[simp] theorem State.dlAppend_lightPenHit (e : Vec) : (s.dlAppend e).lightPenHit = s.lightPenHit := by unfold State.dlAppend; split <;> rfl
@[simp] theorem State.dlAppend_console (e : Vec) : (s.dlAppend e).console = s.console := by unfold State.dlAppend; split <;> rfl
@[simp] theorem State.dlAppend_calls (e : Vec) : (s.dlAppend e).calls = s.calls := by unfold State.dlAppend; split <;> rfl
@[simp] theorem State.dlAppend_asked (e : Vec) : (s.dlAppend e).asked = s.asked := by unfold State.dlAppend; split <;> rfl

-- State.mpFetch
@[simp] theorem State.mpFetch_pc : s.mpFetch.pc = s.pc + 1 := rfl
@[simp] theorem State.mpFetch_ac : s.mpFetch.ac = s.ac := rfl
@[simp] theorem State.mpFetch_ir : s.mpFetch.ir = s.readMem s.pc := rfl
@[simp] theorem State.mpFetch_link : s.mpFetch.link = s.link := rfl
@[simp] theorem State.mpFetch_halt : s.mpFetch.halt = s.halt := rfl
@[simp] theorem State.mpFetch_run : s.mpFetch.run = s.run := rfl
@[simp] theorem State.mpFetch_cyc : s.mpFetch.cyc = s.cyc + 1 := rfl
@[simp] theorem State.mpFetch_dpPc : s.mpFetch.dpPc = s.dpPc := rfl
@[simp] theorem State.mpFetch_dpAc : s.mpFetch.dpAc = s.dpAc := rfl
@[simp] theorem State.mpFetch_x : s.mpFetch.x = s.x := rfl
@[simp] theorem State.mpFetch_y : s.mpFetch.y = s.y := rfl
@[simp] theorem State.mpFetch_dpHalt : s.mpFetch.dpHalt = s.dpHalt := rfl
@[simp] theorem State.mpFetch_dpEnabled : s.mpFetch.dpEnabled = s.dpEnabled := rfl
@[simp] theorem State.mpFetch_intensity : s.mpFetch.intensity = s.intensity := rfl
@[simp] theorem State.mpFetch_scaleSel : s.mpFetch.scaleSel = s.scaleSel := rfl
@[simp] theorem State.mpFetch_stk : s.mpFetch.stk = s.stk := rfl
@[simp] theorem State.mpFetch_sp : s.mpFetch.sp = s.sp := rfl
@[simp] theorem State.mpFetch_mem : s.mpFetch.mem = s.mem := rfl
@[simp] theorem State.mpFetch_dl : s.mpFetch.dl = s.dl := rfl
@[simp] theorem State.mpFetch_keyboard : s.mpFetch.keyboard = s.keyboard := rfl
@[simp] theorem State.mpFetch_lightPenX : s.mpFetch.lightPenX = s.lightPenX := rfl
@[simp] theorem State.mpFetch_lightPenY : s.mpFetch.lightPenY = s.lightPenY := rfl
@[simp] theorem State.mpFetch_lightPenHit : s.mpFetch.lightPenHit = s.lightPenHit := rfl
@[simp] theorem State.mpFetch_console : s.mpFetch.console = s.console := rfl
@[simp] theorem State.mpFetch_calls : s.mpFetch.calls = s.calls := rfl
@[simp] theorem State.mpFetch_asked : s.mpFetch.asked = s.asked := rfl

-- State.dpFetch
@[simp] theorem State.dpFetch_pc : s.dpFetch.pc = s.pc := rfl
@[simp] theorem State.dpFetch_ac : s.dpFetch.ac = s.ac := rfl
@[simp] theorem State.dpFetch_ir : s.dpFetch.ir = s.ir := rfl
@[simp] theorem State.dpFetch_link : s.dpFetch.link = s.link := rfl
@[simp] theorem State.dpFetch_halt : s.dpFetch.halt = s.halt := rfl
@[simp] theorem State.dpFetch_run : s.dpFetch.run = s.run := rfl
@[simp] theorem State.dpFetch_cyc : s.dpFetch.cyc = s.cyc := rfl
@[simp] theorem State.dpFetch_dpPc : s.dpFetch.dpPc = s.dpPc + 1 := rfl
@[simp] theorem State.dpFetch_dpAc : s.dpFetch.dpAc = s.dpAc := rfl
@[simp] theorem State.dpFetch_x : s.dpFetch.x = s.x := rfl
@[simp] theorem State.dpFetch_y : s.dpFetch.y = s.y := rfl
@[simp] theorem State.dpFetch_dpHalt : s.dpFetch.dpHalt = s.dpHalt := rfl
@[simp] theorem State.dpFetch_dpEnabled : s.dpFetch.dpEnabled = s.dpEnabled := rfl
@[simp] theorem State.dpFetch_intensity : s.dpFetch.intensity = s.intensity := rfl
@[simp] theorem State.dpFetch_scaleSel : s.dpFetch.scaleSel = s.scaleSel := rfl
@[simp] theorem State.dpFetch_stk : s.dpFetch.stk = s.stk := rfl
@[simp] theorem State.dpFetch_sp : s.dpFetch.sp = s.sp := rfl
@[simp] theorem State.dpFetch_mem : s.dpFetch.mem = s.mem := rfl
@[simp] theorem State.dpFetch_dl : s.dpFetch.dl = s.dl := rfl
@[simp] theorem State.dpFetch_keyboard : s.dpFetch.keyboard = s.keyboard := rfl
@[simp] theorem State.dpFetch_lightPenX : s.dpFetch.lightPenX = s.lightPenX := rfl
@[simp] theorem State.dpFetch_lightPenY : s.dpFetch.lightPenY = s.lightPenY := rfl
@[simp] theorem State.dpFetch_lightPenHit : s.dpFetch.lightPenHit = s.lightPenHit := rfl
@[simp] theorem State.dpFetch_console : s.dpFetch.console = s.console := rfl
@[simp] theorem State.dpFetch_calls : s.dpFetch.calls = s.calls := rfl
@[simp] theorem State.dpFetch_asked : s.dpFetch.asked = s.asked := rfl

end Sys2Proof.Machine
end

