-- ==== Sys2Proof/Laws/Ops.lean ====
section
/-! SUPPORT. One lemma for each shared operation that acts by cases, saying everything it can do. -/

namespace Sys2Proof.Machine

/-- A push with room: the entry at SP, and SP one higher (R273). -/
theorem State.push_of_room (s : State) (v : Addr) (h : s.sp.val < 16) :
    s.push v = { s with stk := s.stk.set s.sp.val v h, sp := ⟨s.sp.val + 1, by omega⟩ } := by
  simp [State.push, h]

/-- A push on a full stack is dropped (R273). -/
theorem State.push_of_full (s : State) (v : Addr) (h : ¬ s.sp.val < 16) : s.push v = s := by
  simp [State.push, h]

/-- A return with an entry pops it into DP.PC (R274). -/
theorem State.ret_of_entry (s : State) (h : 0 < s.sp.val) :
    s.ret = { s with sp := ⟨s.sp.val - 1, by omega⟩, dpPc := s.stk[s.sp.val - 1]'(by omega) } := by
  simp [State.ret, h]

/-- A return on an empty stack halts the DP (R274). -/
theorem State.ret_of_empty (s : State) (h : s.sp = 0) : s.ret = { s with dpHalt := true } := by
  simp [State.ret, State.haltDp, h]

/-- What a return keeps: the DP is halted afterwards only if it was before or the stack was empty. -/
theorem State.ret_dpHalt (s : State) : s.ret.dpHalt = (s.dpHalt || decide (s.sp = 0)) := by
  by_cases h : s.sp = 0
  · simp [State.ret_of_empty s h, h]
  · have : 0 < s.sp.val := Nat.pos_of_ne_zero fun e => h (Fin.ext e)
    simp [State.ret_of_entry s this, h]

/-- An append with room (R322). -/
theorem State.dlAppend_of_room (s : State) (e : Vec) (h : s.dl.length < Config.maxVec) :
    s.dlAppend e = { s with dl := s.dl ++ [e] } := by
  simp [State.dlAppend, h]

/-- An append to a full list is dropped (R322). -/
theorem State.dlAppend_of_full (s : State) (e : Vec) (h : ¬ s.dl.length < Config.maxVec) : s.dlAppend e = s := by
  simp [State.dlAppend, h]

/-- An append never makes the list longer than its capacity. -/
theorem State.dlAppend_length_le (s : State) (e : Vec) (h : s.dl.length ≤ Config.maxVec) :
    (s.dlAppend e).dl.length ≤ Config.maxVec := by
  rw [State.dlAppend_dl]
  split
  · rw [List.length_append, List.length_singleton]; omega
  · exact h

/-- An unhalted MP step runs the decoded instruction on the state after the fetch (R140). -/
theorem mpStep_of_decode (s : State) (i : Instr) (h : s.halt = false) (hd : decodeMp (s.readMem s.pc) = some i) :
    mpStep s = exec i s.mpFetch := by
  simp [mpStep, h, hd]

/-- A DP step with the gate open runs the decoded instruction on the state after the fetch (R270). -/
theorem dpStep_of_decode (s : State) (i : Instr) (he : s.dpEnabled = true) (hh : s.dpHalt = false)
    (hd : decodeDp (s.readMem s.dpPc) = some i) : dpStep s = exec i s.dpFetch := by
  simp [dpStep, he, hh, hd]

/-- The next operation with a pending call is that call. -/
theorem nextCall_of_pending (s : State) (op : DriverOp) (rest : List DriverOp) (h : s.calls = op :: rest) :
    nextCall s = (op, { s with calls := rest }) := by
  simp [nextCall, h]

end Sys2Proof.Machine
end

