-- ==== Sys2Proof/Laws/PerInstr.lean ====
section
/-! SUPPORT. Laws stated once for each instruction. RowPattern: the word the encoder gives an instruction carries the fixed
bits of the instruction's own row of spec/opcode_table.json (`word & mask = match`, R113). The encoder is written from the
format tables of spec/30_encoding.md, so this compares the two. -/

namespace Sys2Proof.Laws.RowPattern

/-- (mask, match) of the instruction's row in spec/opcode_table.json. -/
def row : Instr → Word × Word
  | .nop => (0xF000#16, 0x0000#16)
  | .law .. => (0xF000#16, 0x1000#16)
  | .jmp .. => (0xF000#16, 0x2000#16)
  | .dac .. => (0xF000#16, 0x3000#16)
  | .xam .. => (0xF000#16, 0x4000#16)
  | .isz .. => (0xF000#16, 0x5000#16)
  | .add .. => (0xF000#16, 0x6000#16)
  | .and .. => (0xF000#16, 0x7000#16)
  | .lda .. => (0xF000#16, 0x8000#16)
  | .jms .. => (0xF000#16, 0x9000#16)
  | .skp .. => (0xF000#16, 0xA000#16)
  | .ior .. => (0xF000#16, 0xB000#16)
  | .ral .. => (0xF000#16, 0xC000#16)
  | .rar .. => (0xF000#16, 0xD000#16)
  | .iotKbd .. => (0xFFC0#16, 0xE040#16)
  | .iotDpc .. => (0xFFC0#16, 0xE080#16)
  | .iotTty => (0xFFC0#16, 0xE100#16)
  | .iotLpn .. => (0xFFC0#16, 0xE400#16)
  | .iotCyc => (0xFFC0#16, 0xE800#16)
  | .iotNone .. => (0xF000#16, 0xE000#16)
  | .hlt => (0xF800#16, 0xF800#16)
  | .opr .. => (0xF800#16, 0xF000#16)
  | .dintp .. => (0xFFF8#16, 0x0E00#16)
  | .dnop .. => (0xF000#16, 0x0000#16)
  | .dlxa .. => (0xF000#16, 0x1000#16)
  | .dlya .. => (0xF000#16, 0x2000#16)
  | .dsvec .. => (0xF000#16, 0x3000#16)
  | .dlvec .. => (0xF000#16, 0x4000#16)
  | .djmp .. => (0xF000#16, 0x5000#16)
  | .djms .. => (0xF000#16, 0x6000#16)
  | .dpt => (0xF800#16, 0x7800#16)
  | .dint7 .. => (0xF810#16, 0x7010#16)
  | .dnop7 => (0xF810#16, 0x7000#16)
  | .drtn8 => (0xF800#16, 0x8800#16)
  | .dhlt8 => (0xF800#16, 0x8000#16)
  | .dint .. => (0xF000#16, 0x9000#16)
  | .dscl .. => (0xF000#16, 0xA000#16)
  | .dret => (0xF000#16, 0xB000#16)
  | .dlxb .. => (0xF000#16, 0xC000#16)
  | .dlyb .. => (0xF000#16, 0xD000#16)
  | .dsxy .. => (0xF000#16, 0xE000#16)
  | .dhlt => (0xF000#16, 0xF000#16)

/-- The fixed bits of the row are in the encoded word. -/
def Statement (i : Instr) : Prop := encode i &&& (row i).1 = (row i).2

/-- Equality of words, bit by bit. -/
theorem word_ext (v w : Word) (h : ∀ i : Fin 16, v.getLsbD i = w.getLsbD i) : v = w :=
  BitVec.eq_of_getLsbD_eq fun i hi => h ⟨i, hi⟩

theorem nop : Statement .nop := by unfold Statement; decide

theorem law (neg : Bool) (lit : BitVec 11) : Statement (.law neg lit) := by
  apply word_ext
  simp only [encode, row, flag, BitVec.getLsbD_and, BitVec.getLsbD_append]
  simp [Fin.forall_fin_succ]

theorem jmp (ea0 : Addr) : Statement (.jmp ea0) := by
  apply word_ext
  simp only [encode, row, BitVec.getLsbD_and, BitVec.getLsbD_append]
  simp [Fin.forall_fin_succ]

theorem dac (ea0 : Addr) : Statement (.dac ea0) := by
  apply word_ext
  simp only [encode, row, BitVec.getLsbD_and, BitVec.getLsbD_append]
  simp [Fin.forall_fin_succ]

theorem xam (ea0 : Addr) : Statement (.xam ea0) := by
  apply word_ext
  simp only [encode, row, BitVec.getLsbD_and, BitVec.getLsbD_append]
  simp [Fin.forall_fin_succ]

theorem isz (ea0 : Addr) : Statement (.isz ea0) := by
  apply word_ext
  simp only [encode, row, BitVec.getLsbD_and, BitVec.getLsbD_append]
  simp [Fin.forall_fin_succ]

theorem add (ea0 : Addr) : Statement (.add ea0) := by
  apply word_ext
  simp only [encode, row, BitVec.getLsbD_and, BitVec.getLsbD_append]
  simp [Fin.forall_fin_succ]

theorem and (ea0 : Addr) : Statement (.and ea0) := by
  apply word_ext
  simp only [encode, row, BitVec.getLsbD_and, BitVec.getLsbD_append]
  simp [Fin.forall_fin_succ]

theorem lda (ea0 : Addr) : Statement (.lda ea0) := by
  apply word_ext
  simp only [encode, row, BitVec.getLsbD_and, BitVec.getLsbD_append]
  simp [Fin.forall_fin_succ]

theorem jms (ea0 : Addr) : Statement (.jms ea0) := by
  apply word_ext
  simp only [encode, row, BitVec.getLsbD_and, BitVec.getLsbD_append]
  simp [Fin.forall_fin_succ]

theorem skp (inv dph key zlk pac zac : Bool) : Statement (.skp inv dph key zlk pac zac) := by
  revert inv dph key zlk pac zac
  unfold Statement
  decide

theorem ior (ea0 : Addr) : Statement (.ior ea0) := by
  apply word_ext
  simp only [encode, row, BitVec.getLsbD_and, BitVec.getLsbD_append]
  simp [Fin.forall_fin_succ]

theorem ral (n : BitVec 8) : Statement (.ral n) := by
  apply word_ext
  simp only [encode, row, BitVec.getLsbD_and, BitVec.getLsbD_append]
  simp [Fin.forall_fin_succ]

theorem rar (n : BitVec 8) : Statement (.rar n) := by
  apply word_ext
  simp only [encode, row, BitVec.getLsbD_and, BitVec.getLsbD_append]
  simp [Fin.forall_fin_succ]

theorem iotKbd (read clear test : Bool) : Statement (.iotKbd read clear test) := by
  revert read clear test
  unfold Statement
  decide

theorem iotDpc (toggle start stop : Bool) : Statement (.iotDpc toggle start stop) := by
  revert toggle start stop
  unfold Statement
  decide

theorem iotTty : Statement .iotTty := by unfold Statement; decide

theorem iotLpn (readX readY test : Bool) : Statement (.iotLpn readX readY test) := by
  revert readX readY test
  unfold Statement
  decide

theorem iotCyc : Statement .iotCyc := by unfold Statement; decide

theorem iotNone (dev : BitVec 6) : Statement (.iotNone dev) := by
  apply word_ext
  simp only [encode, row, BitVec.getLsbD_and, BitVec.getLsbD_append]
  simp [Fin.forall_fin_succ]

theorem hlt : Statement .hlt := by unfold Statement; decide

theorem opr (cla cll cma cml iac stl xda rl1 rr1 : Bool) : Statement (.opr cla cll cma cml iac stl xda rl1 rr1) := by
  revert cla cll cma cml iac stl xda rl1 rr1
  unfold Statement
  decide

theorem dintp (val : Level) : Statement (.dintp val) := by
  apply word_ext
  simp only [encode, row, BitVec.getLsbD_and, BitVec.getLsbD_append]
  simp [Fin.forall_fin_succ]

theorem dnop (addr : Addr) : Statement (.dnop addr) := by
  apply word_ext
  simp only [encode, row, BitVec.getLsbD_and, BitVec.getLsbD_append]
  simp [Fin.forall_fin_succ]

theorem dlxa (addr : Addr) : Statement (.dlxa addr) := by
  apply word_ext
  simp only [encode, row, BitVec.getLsbD_and, BitVec.getLsbD_append]
  simp [Fin.forall_fin_succ]

theorem dlya (addr : Addr) : Statement (.dlya addr) := by
  apply word_ext
  simp only [encode, row, BitVec.getLsbD_and, BitVec.getLsbD_append]
  simp [Fin.forall_fin_succ]

theorem dsvec (sx : Bool) (dx : BitVec 5) (sy : Bool) (dy : BitVec 5) : Statement (.dsvec sx dx sy dy) := by
  apply word_ext
  simp only [encode, row, flag, BitVec.getLsbD_and, BitVec.getLsbD_append]
  simp [Fin.forall_fin_succ]

theorem dlvec (sx : Bool) (dx : BitVec 5) (sy : Bool) (dy : BitVec 5) : Statement (.dlvec sx dx sy dy) := by
  apply word_ext
  simp only [encode, row, flag, BitVec.getLsbD_and, BitVec.getLsbD_append]
  simp [Fin.forall_fin_succ]

theorem djmp (addr : Addr) : Statement (.djmp addr) := by
  apply word_ext
  simp only [encode, row, BitVec.getLsbD_and, BitVec.getLsbD_append]
  simp [Fin.forall_fin_succ]

theorem djms (addr : Addr) : Statement (.djms addr) := by
  apply word_ext
  simp only [encode, row, BitVec.getLsbD_and, BitVec.getLsbD_append]
  simp [Fin.forall_fin_succ]

theorem dpt : Statement .dpt := by unfold Statement; decide

theorem dint7 (val : Level) : Statement (.dint7 val) := by
  apply word_ext
  simp only [encode, row, BitVec.getLsbD_and, BitVec.getLsbD_append]
  simp [Fin.forall_fin_succ]

theorem dnop7 : Statement .dnop7 := by unfold Statement; decide

theorem drtn8 : Statement .drtn8 := by unfold Statement; decide

theorem dhlt8 : Statement .dhlt8 := by unfold Statement; decide

theorem dint (val : Level) : Statement (.dint val) := by
  apply word_ext
  simp only [encode, row, BitVec.getLsbD_and, BitVec.getLsbD_append]
  simp [Fin.forall_fin_succ]

theorem dscl (sel : ScaleSel) : Statement (.dscl sel) := by
  apply word_ext
  simp only [encode, row, BitVec.getLsbD_and, BitVec.getLsbD_append]
  simp [Fin.forall_fin_succ]

theorem dret : Statement .dret := by unfold Statement; decide

theorem dlxb (addr : Addr) : Statement (.dlxb addr) := by
  apply word_ext
  simp only [encode, row, BitVec.getLsbD_and, BitVec.getLsbD_append]
  simp [Fin.forall_fin_succ]

theorem dlyb (addr : Addr) : Statement (.dlyb addr) := by
  apply word_ext
  simp only [encode, row, BitVec.getLsbD_and, BitVec.getLsbD_append]
  simp [Fin.forall_fin_succ]

theorem dsxy (x y : BitVec 5) : Statement (.dsxy x y) := by
  apply word_ext
  simp only [encode, row, BitVec.getLsbD_and, BitVec.getLsbD_append]
  simp [Fin.forall_fin_succ]

theorem dhlt : Statement .dhlt := by unfold Statement; decide

end Sys2Proof.Laws.RowPattern
end

