-- ==== Sys2Proof/Tests/Slice0.lean ====
section
/-! SUPPORT. Tests of the model. Expected values are the spec's own: the vectors of spec/95_test_vectors.md, whose ids stand in
the comments, and the encodings of spec/30_encoding.md. At the end, the witnesses: for each obligation with hypotheses, a
concrete case that meets them. -/

namespace Sys2Proof.Tests

set_option Elab.async false

open Sys2Proof Sys2Proof.Machine

/-- A view of the state after an outcome; `none` if the outcome is no next state. -/
def view {α : Type} (o : Host.Outcome State Fault Refusal) (f : State → α) : Option α :=
  match o with
  | .next t => some (f t)
  | _ => none

/-- One step of the MP over a word placed at its PC. -/
def mp {α : Type} (w : Word) (s : State) (f : State → α) : Option α := view (step (s.placeMpWord w)) f

/-- One step of the DP over a word placed at its DP.PC. -/
def dp {α : Type} (w : Word) (s : State) (f : State → α) : Option α := view (step (s.placeDpWord w)) f

/-- The reset state with one Memory word stored. -/
def withWord (a : Addr) (v : Word) : State := State.reset.writeMem a v

/-- The reset state with AC and Link. -/
def withAc (ac : Word) (link : Bool) : State := { State.reset with ac := ac, link := link }

/-- The reset state with a beam position and an Intensity. -/
def withBeam (x y : Coord) (level : Level) : State := { State.reset with x := x, y := y, intensity := level }

/-! ## Well-formedness -/

theorem test_wellFormed_refuses_known_device : (Instr.iotNone 0x01).wellFormed = false := by decide
theorem test_wellFormed_refuses_intensity_word : (Instr.dnop 0xE05).wellFormed = false := by decide
theorem test_wellFormed_accepts_fallback_rows :
    (Instr.iotNone 0x03).wellFormed = true ∧ (Instr.dnop 0xE08).wellFormed = true := by decide

/-! ## Decoding: one word for each constructor, written out from R92 to R102 -/

theorem test_decode_mp_memory_reference :
    decodeMp 0b0000111111111111#16 = some .nop ∧
    decodeMp 0b0001100000000101#16 = some (.law true 5) ∧
    decodeMp 0b0010100100000000#16 = some (.jmp 0x900) ∧
    decodeMp 0b0011000001100000#16 = some (.dac 0x060) ∧
    decodeMp 0b0100000001100000#16 = some (.xam 0x060) ∧
    decodeMp 0b0101000001100000#16 = some (.isz 0x060) ∧
    decodeMp 0b0110000001010000#16 = some (.add 0x050) ∧
    decodeMp 0b0111000001100000#16 = some (.and 0x060) ∧
    decodeMp 0b1000100001100010#16 = some (.lda 0x862) ∧
    decodeMp 0b1001011111111111#16 = some (.jms 0x7FF) ∧
    decodeMp 0b1011000001100000#16 = some (.ior 0x060) := by decide

theorem test_decode_mp_skip_rotate :
    decodeMp 0b1010000000100001#16 = some (.skp true false false false false true) ∧
    decodeMp 0b1010000000011110#16 = some (.skp false true true true true false) ∧
    decodeMp 0b1010111111000001#16 = some (.skp false false false false false true) ∧
    decodeMp 0b1100111100000001#16 = some (.ral 1) ∧
    decodeMp 0b1101000011111111#16 = some (.rar 255) := by decide

theorem test_decode_mp_iot :
    decodeMp 0b1110000001000011#16 = some (.iotKbd true true false) ∧
    decodeMp 0b1110000010000100#16 = some (.iotDpc false false true) ∧
    decodeMp 0b1110000100111111#16 = some .iotTty ∧
    decodeMp 0b1110010000000010#16 = some (.iotLpn false true false) ∧
    decodeMp 0b1110100000000000#16 = some .iotCyc ∧
    decodeMp 0b1110000011000111#16 = some (.iotNone 3) ∧
    decodeMp 0b1110111111111111#16 = some (.iotNone 63) := by decide

theorem test_decode_mp_operate :
    decodeMp 0b1111100000000000#16 = some .hlt ∧ decodeMp 0b1111111111111111#16 = some .hlt ∧
    decodeMp 0b1111010101000000#16 = some (.opr true false true false true false false false false) ∧
    decodeMp 0b1111001010101011#16 = some (.opr false true false true false true false true false) ∧
    decodeMp 0b1111000000010100#16 = some (.opr false false false false false false true false true) := by decide

theorem test_decode_dp_control :
    decodeDp 0b0101000100000000#16 = some (.djmp 0x100) ∧
    decodeDp 0b0110000100010000#16 = some (.djms 0x110) ∧
    decodeDp 0b1000111111111111#16 = some .drtn8 ∧ decodeDp 0b1000011111111111#16 = some .dhlt8 ∧
    decodeDp 0b1011111111111111#16 = some .dret ∧ decodeDp 0b1111000000000000#16 = some .dhlt := by decide

theorem test_decode_dp_draw :
    decodeDp 0b0000111000000101#16 = some (.dintp 5) ∧ decodeDp 0b0000111000001000#16 = some (.dnop 0xE08) ∧
    decodeDp 0b0001000001100100#16 = some (.dlxa 100) ∧ decodeDp 0b0010000011001000#16 = some (.dlya 200) ∧
    decodeDp 0b0011101010000101#16 = some (.dsvec true 10 false 5) ∧
    decodeDp 0b0100100010000011#16 = some (.dlvec true 2 false 3) ∧
    decodeDp 0b0100000000101010#16 = some (.dlvec false 0 true 10) ∧
    decodeDp 0b0111100000010111#16 = some .dpt ∧ decodeDp 0b0111000000010011#16 = some (.dint7 3) ∧
    decodeDp 0b0111000000001000#16 = some .dnop7 ∧ decodeDp 0b1001111111111101#16 = some (.dint 5) ∧
    decodeDp 0b1010111111111110#16 = some (.dscl 2) ∧ decodeDp 0b1100001111111111#16 = some (.dlxb 1023) ∧
    decodeDp 0b1101011111111111#16 = some (.dlyb 0x7FF) ∧ decodeDp 0b1110001010000101#16 = some (.dsxy 10 5) := by
  decide

theorem test_decodeTableWord_takes_the_whole_word :
    decodeTableWord 16 0x1805 = some (.law true 5) ∧ decodeTableWord 8 0x1805 = none := by decide

/-! ## The MP cycle -/

/-- MR-7, placed as an opcode-table word. -/
theorem test_withFetchWord_runs_next :
    view (step (State.reset.withFetchWord 16 0x1805)) (fun t => (t.ac, t.pc, t.calls)) = some (0xFFFB, 0x051, []) := by
  decide +kernel

/-- CY-1. -/
theorem test_halted_mp_does_nothing :
    view (mpStep { withWord 0x050 0x1005 with halt := true }) (fun t => (t.pc, t.ac, t.ir, t.cyc)) =
      some (0x050, 0, 0, 0) := by decide +kernel
/-- CY-2. -/
theorem test_run_is_not_tested :
    view (mpStep { withWord 0x050 0x1005 with run := false }) (fun t => (t.pc, t.ac, t.ir, t.cyc)) =
      some (0x051, 5, 0x1005, 1) := by decide +kernel
/-- CY-3. -/
theorem test_pc_wraps : mp 0x0000 { State.reset with pc := 0xFFF } (fun t => t.pc) = some 0x000 := by decide +kernel

/-! ## MP: memory reference and literal -/

/-- MR-2. -/
theorem test_nop : mp 0x0FFF (withAc 0x1234 true) (fun t => (t.pc, t.ac, t.link)) = some (0x051, 0x1234, true) := by
  decide +kernel
/-- MR-3. -/
theorem test_law : mp 0x1005 (withAc 0xAAAA true) (fun t => (t.pc, t.ac, t.link)) = some (0x051, 5, true) := by
  decide +kernel
/-- MR-7, MR-8. -/
theorem test_law_negates : mp 0x1805 (withAc 0xAAAA true) (fun t => (t.ac, t.link)) = some (0xFFFB, true) ∧
    mp 0x1800 (withAc 0xAAAA true) (fun t => (t.ac, t.link)) = some (0, true) := by decide +kernel
/-- MR-10. -/
theorem test_jmp : mp 0x2123 State.reset (fun t => t.pc) = some 0x123 := by decide +kernel
/-- MR-11, MR-14. -/
theorem test_jmp_indirect : mp 0x2800 (withWord 0x800 0xF234) (fun t => t.pc) = some 0x234 ∧
    mp 0x2FFF (withWord 0xFFF 0x0FFF) (fun t => t.pc) = some 0xFFF := by decide +kernel
/-- MR-15. -/
theorem test_dac : mp 0x3060 (withAc 0xBEEF false) (fun t => (t.readMem 0x060, t.ac)) = some (0xBEEF, 0xBEEF) := by
  decide +kernel
/-- MR-19: the pointer is read before the store replaces it. -/
theorem test_dac_indirect_onto_pointer :
    mp 0x3800 { withWord 0x800 0x0800 with ac := 0x1234 } (fun t => t.readMem 0x800) = some 0x1234 := by decide +kernel
/-- MR-20. -/
theorem test_xam : mp 0x4060 { withWord 0x060 0x2222 with ac := 0x1111 } (fun t => (t.ac, t.readMem 0x060)) =
    some (0x2222, 0x1111) := by decide +kernel
/-- MR-21. -/
theorem test_xam_onto_pointer : mp 0x4800 { withWord 0x800 0x0800 with ac := 0x0ABC }
    (fun t => (t.ac, t.readMem 0x800)) = some (0x0800, 0x0ABC) := by decide +kernel
/-- MR-40. -/
theorem test_isz_wraps_and_skips : mp 0x5060 { withWord 0x060 0xFFFF with ac := 7, link := true }
    (fun t => (t.readMem 0x060, t.pc, t.ac, t.link)) = some (0, 0x052, 7, true) := by decide +kernel
/-- MR-41. -/
theorem test_isz_into_bit15 : mp 0x5060 (withWord 0x060 0x7FFF) (fun t => (t.readMem 0x060, t.pc)) =
    some (0x8000, 0x051) := by decide +kernel
/-- MR-31. -/
theorem test_add_carries : mp 0x6060 { withWord 0x060 1 with ac := 0xFFFF } (fun t => (t.ac, t.link)) =
    some (0, true) := by decide +kernel
/-- MR-34: the old Link is not added. -/
theorem test_add_ignores_link : mp 0x6060 { withWord 0x060 2 with ac := 1, link := true } (fun t => (t.ac, t.link)) =
    some (3, false) := by decide +kernel
/-- MR-25. -/
theorem test_and : mp 0x7060 { withWord 0x060 0x3C3C with ac := 0xF0F0, link := true }
    (fun t => (t.ac, t.link, t.readMem 0x060)) = some (0x3030, true, 0x3C3C) := by decide +kernel
/-- MR-23. -/
theorem test_lda_indirect : mp 0x8862 ((withWord 0x862 0x0070).writeMem 0x070 0xBEEF) (fun t => t.ac) =
    some 0xBEEF := by decide +kernel
/-- MR-24. -/
theorem test_lda_own_word : mp 0x8050 State.reset (fun t => t.ac) = some 0x8050 := by decide +kernel
/-- MR-27. -/
theorem test_ior : mp 0xB060 { withWord 0x060 0x0F00 with ac := 0x00F0, link := true } (fun t => (t.ac, t.link)) =
    some (0x0FF0, true) := by decide +kernel
/-- MR-52. -/
theorem test_jms_indirect : mp 0x9800 (withWord 0x800 0x0FFF) (fun t => (t.readMem 0xFFF, t.pc, t.readMem 0x800)) =
    some (0x0051, 0x000, 0x0FFF) := by decide +kernel
/-- MR-54: the return address wraps. -/
theorem test_jms_at_top : mp 0x9060 { withWord 0x060 0x1111 with pc := 0xFFF } (fun t => (t.readMem 0x060, t.pc)) =
    some (0x0000, 0x061) := by decide +kernel

/-! ## MP: skip and rotate -/

/-- SK-6, SK-13, SK-18, SK-20. -/
theorem test_skp : mp 0xA002 (withAc 0x8000 false) (fun t => t.pc) = some 0x051 ∧
    mp 0xA028 State.reset (fun t => t.pc) = some 0x052 ∧ mp 0xA020 State.reset (fun t => t.pc) = some 0x052 ∧
    mp 0xA005 (withAc 5 false) (fun t => t.pc) = some 0x052 := by decide +kernel
/-- SK-24, SK-25: all five conditions, none of which holds. -/
theorem test_skp_all_conditions :
    mp 0xA01F { withAc 0x8000 true with dpHalt := false } (fun t => t.pc) = some 0x051 ∧
    mp 0xA03F { withAc 0x8000 true with dpHalt := false } (fun t => t.pc) = some 0x052 := by decide +kernel
/-- RT-2, RT-3. -/
theorem test_ral : mp 0xC000 (withAc 0x8001 false) (fun t => (t.ac, t.link)) = some (0x0002, true) ∧
    mp 0xC002 (withAc 0x8001 false) (fun t => (t.ac, t.link)) = some (0x0005, false) := by decide +kernel
/-- RT-6, RT-8. -/
theorem test_ral_full_turns : mp 0xC011 (withAc 0x1234 true) (fun t => (t.ac, t.link)) = some (0x1234, true) ∧
    mp 0xC0FF (withAc 0x8001 false) (fun t => (t.ac, t.link)) = some (0x8001, false) := by decide +kernel
/-- RT-12, RT-13. -/
theorem test_rar : mp 0xD001 (withAc 0 true) (fun t => (t.ac, t.link)) = some (0x8000, false) ∧
    mp 0xD004 (withAc 0x00FF false) (fun t => (t.ac, t.link)) = some (0xE00F, true) := by decide +kernel
/-- RT-11, RT-14. -/
theorem test_rar_zero_and_sixteen : mp 0xD000 (withAc 1 false) (fun t => (t.ac, t.link)) = some (0, true) ∧
    mp 0xD010 (withAc 0x1234 true) (fun t => (t.ac, t.link)) = some (0x2469, false) := by decide +kernel

/-! ## MP: I/O transfer -/

/-- IO-3, IO-4. -/
theorem test_keyboard : mp 0xE043 { withAc 0x9999 false with keyboard := 0x41 } (fun t => (t.ac, t.keyboard)) =
      some (0x41, 0) ∧
    mp 0xE044 { State.reset with keyboard := 0x41 } (fun t => (t.keyboard, t.pc)) = some (0x41, 0x052) := by
  decide +kernel
/-- IO-8: cleared before it is tested. -/
theorem test_keyboard_all : mp 0xE047 { State.reset with keyboard := 0x41 } (fun t => (t.ac, t.keyboard, t.pc)) =
    some (0x41, 0, 0x051) := by decide +kernel
/-- IO-23. -/
theorem test_dpc_start : mp 0xE082 (withAc 0xF123 false) (fun t => (t.dpHalt, t.dpPc, t.dpEnabled)) =
    some (false, 0x123, true) := by decide +kernel
/-- IO-27: toggle, start, stop. -/
theorem test_dpc_all : mp 0xE087 { withAc 0x0300 false with dpHalt := false }
    (fun t => (t.dpEnabled, t.dpPc, t.dpHalt)) = some (false, 0x300, true) := by decide +kernel
/-- IO-31, IO-33. -/
theorem test_tty : mp 0xE100 (withAc 0x0141 false) (fun t => t.console) = some [.char 0x41] ∧
    mp 0xE100 (withAc 0x000A false) (fun t => t.console) = some [.char 0x0A] := by decide +kernel
/-- IO-35, IO-36, IO-37. -/
theorem test_tty_drops : mp 0xE100 (withAc 0x000D false) (fun t => t.console) = some [] ∧
    mp 0xE100 (withAc 0x001F false) (fun t => t.console) = some [] ∧
    mp 0xE100 (withAc 0x0020 false) (fun t => t.console) = some [.char 0x20] := by decide +kernel
/-- IO-52, IO-55. -/
theorem test_lightPen :
    mp 0xE403 { State.reset with lightPenX := 0x123, lightPenY := 0x2BC } (fun t => t.ac) = some 0x2BC ∧
    mp 0xE405 { State.reset with lightPenX := 0x123, lightPenHit := true } (fun t => (t.ac, t.pc, t.lightPenHit)) =
      some (0x123, 0x052, true) := by decide +kernel
/-- IO-60, IO-62. -/
theorem test_cyc : mp 0xE800 (withAc 0xAAAA false) (fun t => (t.ac, t.cyc)) = some (1, 1) ∧
    mp 0xE800 { State.reset with cyc := 65535 } (fun t => (t.ac, t.cyc)) = some (0, 65536) := by decide +kernel
/-- IO-71: device 3 is not devices 1 and 2. -/
theorem test_unknown_device : mp 0xE0C7 { withAc 0x1234 false with keyboard := 0x41 }
    (fun t => (t.ac, t.keyboard, t.pc, t.dpHalt)) = some (0x1234, 0x41, 0x051, true) := by decide +kernel

/-! ## MP: operate -/

/-- OP-10, OP-34, OP-35. -/
theorem test_opr : mp 0xF040 (withAc 7 true) (fun t => (t.ac, t.link)) = some (8, false) ∧
    mp 0xF018 { withAc 0x1111 false with dpAc := 0x8000 } (fun t => (t.ac, t.link, t.dpAc)) = some (0, true, 0x1111) ∧
    mp 0xF7FC { withAc 0x1234 false with dpAc := 0x00AB } (fun t => (t.ac, t.link, t.dpAc)) = some (0x00AB, true, 0) := by
  decide +kernel
/-- OP-19, OP-27, OP-30. -/
theorem test_opr_order : mp 0xF140 (withAc 5 false) (fun t => (t.ac, t.link)) = some (0xFFFB, false) ∧
    mp 0xF0C0 (withAc 0xFFFF false) (fun t => (t.ac, t.link)) = some (0, true) ∧
    mp 0xF204 (withAc 0x8001 true) (fun t => (t.ac, t.link)) = some (0x4000, true) := by decide +kernel
/-- OP-40. -/
theorem test_hlt : mp 0xF800 { withAc 0x000A true with dpAc := 7 } (fun t => (t.ac, t.link, t.dpAc, t.halt, t.run, t.pc)) =
      some (0x000A, true, 7, true, false, 0x051) ∧
    mp 0xF800 (withAc 0x000A true) (fun t => t.console) = some [.haltDiag 0x051 0x000A] := by decide +kernel
/-- OP-41: the nine micro-ops are suppressed. -/
theorem test_hlt_suppresses : mp 0xFFFF { withAc 0x1234 false with dpAc := 0x5678 }
    (fun t => (t.ac, t.link, t.dpAc, t.halt)) = some (0x1234, false, 0x5678, true) := by decide +kernel

/-! ## DP: cycle and control -/

/-- DC-1, DC-2. -/
theorem test_stopped_dp_does_nothing :
    view (dpStep (withWord 0x100 0x7800)) (fun t => (t.dpPc, t.dl)) = some (0x100, []) ∧
    view (dpStep { withWord 0x100 0x7800 with dpHalt := false, dpEnabled := false }) (fun t => (t.dpPc, t.dl)) =
      some (0x100, []) := by decide +kernel
/-- DC-4; DD-5. -/
theorem test_dnop : dp 0x0000 { State.reset with dpPc := 0xFFF } (fun t => (t.dpPc, t.dpHalt)) = some (0, false) ∧
    dp 0x0F05 (withBeam 0 0 3) (fun t => t.intensity) = some 3 := by decide +kernel
/-- DC-7: no indirection on the DP. -/
theorem test_djmp : dp 0x5FFF State.reset (fun t => t.dpPc) = some 0xFFF := by decide +kernel
/-- DC-8. -/
theorem test_djms : dp 0x6110 { State.reset with dpPc := 0x103 } (fun t => (t.stk[0], t.sp, t.dpPc)) =
    some (0x104, 1, 0x110) := by decide +kernel
/-- DC-10. -/
theorem test_djms_full : dp 0x6200 { State.reset with sp := 16 } (fun t => (t.stk[15], t.sp, t.dpPc)) =
    some (0, 16, 0x200) := by decide +kernel
/-- DC-14. -/
theorem test_dret : dp 0xBFFF { State.reset with sp := 2, stk := #v[0x104, 0x222, 0, 0, 0, 0, 0, 0, 0, 0, 0, 0, 0, 0, 0, 0] }
    (fun t => (t.sp, t.dpPc, t.dpHalt)) = some (1, 0x222, false) := by decide +kernel
/-- DC-13. -/
theorem test_dret_empty : dp 0xB000 { State.reset with dpPc := 0x112 } (fun t => (t.dpHalt, t.sp, t.dpPc)) =
    some (true, 0, 0x113) := by decide +kernel
/-- DC-15, DC-16. -/
theorem test_drtn8 : dp 0x8800 { State.reset with sp := 2, stk := #v[0x104, 0x123, 0, 0, 0, 0, 0, 0, 0, 0, 0, 0, 0, 0, 0, 0] }
      (fun t => (t.sp, t.dpPc)) = some (1, 0x123) ∧
    dp 0x8FFF { State.reset with dpPc := 0x150 } (fun t => (t.dpHalt, t.dpPc)) = some (true, 0x151) := by decide +kernel
/-- DC-17. -/
theorem test_dhlt8 : dp 0x8000 { State.reset with dpPc := 0x150, sp := 1 } (fun t => (t.dpHalt, t.dpPc, t.sp)) =
    some (true, 0x151, 1) := by decide +kernel
/-- DC-20: the MP's HLT word, fetched by the DP. -/
theorem test_dhlt : dp 0xF800 { State.reset with dpPc := 0x105 } (fun t => (t.dpHalt, t.dpPc, t.halt, t.console)) =
    some (true, 0x106, false, []) := by decide +kernel

/-! ## DP: drawing -/

/-- DD-2, DD-4. -/
theorem test_dintp : dp 0x0E05 (withBeam 0 0 3) (fun t => t.intensity) = some 5 ∧
    dp 0x0E08 (withBeam 0 0 3) (fun t => t.intensity) = some 3 := by decide +kernel
/-- DD-9. -/
theorem test_dint7 : dp 0x77FF (withBeam 0 0 5) (fun t => t.intensity) = some 7 := by decide +kernel
/-- DD-10. -/
theorem test_dnop7 : dp 0x77EF (withBeam 0 0 5) (fun t => (t.intensity, t.dl)) = some (5, []) := by decide +kernel
/-- DD-13. -/
theorem test_dint : dp 0x9FFD (withBeam 0 0 3) (fun t => t.intensity) = some 5 := by decide +kernel
/-- DD-15. -/
theorem test_dscl : dp 0xAFFE { withBeam 5 6 7 with scaleSel := 0 } (fun t => (t.scaleSel, t.x, t.y)) =
    some (2, 5, 6) := by decide +kernel
/-- DD-24. -/
theorem test_dlxa : dp 0x1C64 (withBeam 5 6 7) (fun t => (t.x, t.y)) = some (100, 6) := by decide +kernel
/-- DD-27. -/
theorem test_dlya : dp 0x2FFF (withBeam 5 6 7) (fun t => (t.x, t.y)) = some (5, 1023) := by decide +kernel
/-- DD-29. -/
theorem test_dlxb : dp 0xC400 (withBeam 5 6 7) (fun t => (t.x, t.y)) = some (0, 6) := by decide +kernel
/-- DD-31. -/
theorem test_dlyb : dp 0xD7FF (withBeam 5 6 7) (fun t => (t.x, t.y)) = some (5, 1023) := by decide +kernel
/-- DD-32, DD-35. -/
theorem test_dsxy : dp 0xE285 (withBeam 500 600 7) (fun t => (t.x, t.y)) = some (10, 5) ∧
    dp 0xEFFF (withBeam 500 600 7) (fun t => (t.x, t.y, t.dl)) = some (31, 31, []) := by decide +kernel
/-- DV-2, DV-6: below 0 the position wraps. -/
theorem test_dsvec : dp 0x3AA5 (withBeam 100 200 7) (fun t => (t.x, t.y, t.dl)) =
      some (90, 195, [.line 100 200 90 195 7]) ∧
    dp 0x3FFF (withBeam 0 0 7) (fun t => (t.x, t.y)) = some (993, 993) := by decide +kernel
/-- DV-10, DV-13: above 1023 the position wraps. -/
theorem test_dlvec : dp 0x4883 (withBeam 110 205 7) (fun t => (t.x, t.y, t.dl)) =
      some (94, 229, [.line 110 205 94 229 7]) ∧
    dp 0x47DF (withBeam 900 900 2) (fun t => (t.x, t.y)) = some (124, 124) := by decide +kernel
/-- DV-21, DV-22, with the entry as its reader sees it. -/
theorem test_dpt : dp 0x7FFF (withBeam 94 229 0) (fun t => t.readDisplayList) = some [.point 94 229 (1 / 20)] ∧
    dp 0x7817 (withBeam 94 229 3) (fun t => (t.readDisplayList, t.intensity)) = some ([.point 94 229 (3 / 7)], 3) := by
  decide +kernel

/-! ## Reset, the host, Memory and the assembler -/

/-- RS-3, RS-4. -/
theorem test_powerOn :
    view (perform .powerOn { withAc 7 true with halt := true, cyc := 9 }) (fun t => (t.pc, t.ac, t.halt, t.run)) =
      some (0x050, 0, false, true) ∧
    view (perform .powerOn { withAc 7 true with cyc := 9, dl := [.point 1 2 3] }) (fun t => (t.cyc, t.dpPc, t.dl)) =
      some (0, 0x100, []) := by
  decide +kernel
/-- HO-1, HO-2, HO-3. -/
theorem test_host_masks : view (perform (.setKeyboard 0x10041) State.reset) (fun t => t.keyboard) = some 0x41 ∧
    view (perform (.poke 0x1050 0x12345) State.reset) (fun t => t.peek 0x050) = some 0x2345 := by decide +kernel
/-- R62, R63: a word is stored whole, in the canonical form. -/
theorem test_memory_form : ((withWord 0x051 0xABCD).writeMem 0x050 0x1234).mem =
      [(0xA0, 0x34), (0xA1, 0x12), (0xA2, 0xCD), (0xA3, 0xAB)] ∧
    Memory.wf [(0xA0, 0x34), (0xA1, 0x12)] = true ∧ Memory.wf [(0xA1, 0x12), (0xA0, 0x34)] = false ∧
    Memory.wf [(8192, 0)] = false := by decide +kernel
/-- S-7, R131: the source's own text. -/
theorem test_assemble : assemble "START: LAW 5\nADD START\nHLT".toList =
    ([(0x050, 0x1005), (0x051, 0x6050), (0x052, 0xF800)], 3) := by decide +kernel
/-- R120 to R125 by hand: lower case, a comment, a blank line, an origin, data, a failed number. -/
theorem test_assemble_forms :
    assemble "s: law 0xFFF ; top\n\n.ORG 0x100\nT: .word 1 t S zz\n add t".toList =
      ([(0x050, 0x17FF), (0x100, 1), (0x101, 0x100), (0x102, 0x050), (0x103, 0), (0x104, 0x6100)], 0xB5) := by
  decide +kernel

/-- R126: the 12-bit operand mask lets an address of 0x800 or more set bit 11. -/
theorem test_assemble_jmp : assemble "jmp 0x900\nJMP 0x1123".toList = ([(0x050, 0x2900), (0x051, 0x2123)], 2) := by
  decide +kernel
/-- R124, log entry 13: a sign, or digits before other characters, is no number. -/
theorem test_assemble_no_number : assemble "DATA -5 12AB 12".toList = ([(0x050, 0), (0x051, 0), (0x052, 12)], 3) := by
  decide +kernel

/-! ## Witnesses: each obligation's hypotheses are met -/

theorem witness_MemoryReadsTheWordLastWritten : (0x000#12 : Addr) ≠ 0xFFF#12 := by decide
theorem witness_DecodeOfEncode : (Instr.iotNone 0).wellFormed = true ∧ (Instr.iotNone 63).wellFormed = true ∧
    (Instr.dnop 0xDFF).wellFormed = true ∧ (Instr.dlvec true 31 true 31).wellFormed = true := by decide
theorem witness_IgnoredBits : decode .mp 0xA001#16 = some (.skp false false false false false true) ∧
    0xAFC1#16 &&& examined (.skp false false false false false true) =
      0xA001#16 &&& examined (.skp false false false false false true) := by decide
theorem witness_Nop : field 0x0FFF#16 12 4 = 0x0#4 ∧
    (State.reset.placeMpWord 0x0000).halt = false ∧
    field ((State.reset.placeMpWord 0x0000).readMem (State.reset.placeMpWord 0x0000).pc) 12 4 = 0x0#4 := by
  decide +kernel
theorem witness_UnknownDevices : field 0xE000#16 12 4 = 0xE#4 ∧ field 0xE000#16 6 6 ≠ 0x01#6 ∧
    field 0xE000#16 6 6 ≠ 0x02#6 ∧ field 0xE000#16 6 6 ≠ 0x04#6 ∧ field 0xE000#16 6 6 ≠ 0x10#6 ∧
    field 0xE000#16 6 6 ≠ 0x20#6 ∧ field 0xEFFF#16 12 4 = 0xE#4 ∧ field 0xEFFF#16 6 6 = 63#6 ∧
    (State.reset.placeMpWord 0xE0C7).halt = false ∧
    decodeMp ((State.reset.placeMpWord 0xE0C7).readMem (State.reset.placeMpWord 0xE0C7).pc) = some (.iotNone 3) := by
  decide +kernel
theorem witness_Law : field 0x1FFF#16 12 4 = 0x1#4 ∧ field 0x1000#16 12 4 = 0x1#4 := by decide
theorem witness_EffectiveAddress : (0x7FF#12 : Addr).toNat < 0x800 ∧ 0x800 ≤ (0x800#12 : Addr).toNat ∧
    0x800 ≤ (0xFFF#12 : Addr).toNat := by decide
theorem witness_Jumps : field 0x2FFF#16 12 4 = 0x2#4 ∧ field 0x5FFF#16 12 4 = 0x5#4 := by decide
theorem witness_Dac : field 0x3000#16 12 4 = 0x3#4 ∧ (0xFFF#12 : Addr) ≠ State.reset.ea 0x060 := by decide +kernel
theorem witness_Xam : field 0x4FFF#16 12 4 = 0x4#4 ∧ (0x061#12 : Addr) ≠ State.reset.ea 0x060 := by decide +kernel
theorem witness_Isz : field 0x5000#16 12 4 = 0x5#4 ∧ (0x05F#12 : Addr) ≠ State.reset.ea 0x060 := by decide +kernel
theorem witness_Add : field 0x6FFF#16 12 4 = 0x6#4 := by decide
theorem witness_AndLdaIor : field 0x7000#16 12 4 = 0x7#4 ∧ field 0x8FFF#16 12 4 = 0x8#4 ∧ field 0xB000#16 12 4 = 0xB#4 := by
  decide
theorem witness_Jms : field 0x97FF#16 12 4 = 0x9#4 ∧ (0x000#12 : Addr) ≠ State.reset.ea 0x7FF := by decide +kernel
theorem witness_Skp : field 0xAFC1#16 12 4 = 0xA#4 ∧ field 0xA03F#16 12 4 = 0xA#4 := by decide
theorem witness_RotateWords : field 0xC000#16 12 4 = 0xC#4 ∧ field 0xDFFF#16 12 4 = 0xD#4 := by decide
theorem witness_IotWords :
    (field 0xE07F#16 12 4 = 0xE#4 ∧ field 0xE07F#16 6 6 = 0x01#6) ∧
    (field 0xE080#16 12 4 = 0xE#4 ∧ field 0xE080#16 6 6 = 0x02#6) ∧
    (field 0xE13F#16 12 4 = 0xE#4 ∧ field 0xE13F#16 6 6 = 0x04#6) ∧
    (field 0xE400#16 12 4 = 0xE#4 ∧ field 0xE400#16 6 6 = 0x10#6) := by decide
theorem witness_Opr : field 0xF7FF#16 12 4 = 0xF#4 ∧ bit 0xF7FF#16 11 = false := by decide
theorem witness_DjmsAndReturnWords : field 0x6FFF#16 12 4 = 0x6#4 ∧ field 0xBFFF#16 12 4 = 0xB#4 ∧
    field 0x8800#16 12 4 = 0x8#4 ∧ bit 0x8800#16 11 = true := by decide
theorem witness_LoadWords : field 0x1FFF#16 12 4 = 0x1#4 ∧ field 0x2000#16 12 4 = 0x2#4 ∧ field 0xC400#16 12 4 = 0xC#4 ∧
    field 0xD7FF#16 12 4 = 0xD#4 := by decide
theorem witness_VectorWords : field 0x3FFF#16 12 4 = 0x3#4 ∧ field 0x4000#16 12 4 = 0x4#4 := by decide
theorem witness_Rotates : 1 ≤ (1#8).toNat ∧ (1#8).toNat ≤ 16 ∧ 1 ≤ (16#8).toNat ∧ (16#8).toNat ≤ 16 := by decide
theorem witness_CycleCounter : (State.reset.placeMpWord 0xE83F).halt = false ∧
    field ((State.reset.placeMpWord 0xE83F).readMem (State.reset.placeMpWord 0xE83F).pc) 6 10 = 0x3A0#10 := by
  decide +kernel
theorem witness_Hlt : 0xF800 ≤ (0xF800#16).toNat ∧ 0xF800 ≤ (0xFFFF#16).toNat := by decide
theorem witness_Djms : State.reset.sp.val < 16 ∧ ({ State.reset with sp := 15 } : State).sp.val < 16 ∧
    ({ State.reset with sp := 16 } : State).sp.val = 16 := by decide
theorem witness_Returns : 0 < ({ State.reset with sp := 1 } : State).sp.val ∧
    0 < ({ State.reset with sp := 16 } : State).sp.val ∧ State.reset.sp = 0 ∧
    (Instr.dret = .dret ∨ Instr.dret = .drtn8) ∧ (Instr.drtn8 = .dret ∨ Instr.drtn8 = .drtn8) := by decide
theorem witness_DpHalts : 0x8000 ≤ (0x8000#16).toNat ∧ (0x87FF#16).toNat ≤ 0x87FF ∧ 0xF000 ≤ (0xF000#16).toNat := by
  decide
theorem witness_SeventeenCalls : State.reset.sp = 0 ∧ ({ State.reset with dpHalt := false } : State).dpHalt = false ∧
    (List.replicate 17 (0x200#12 : Addr)).length = 17 ∧ (List.replicate 16 Instr.dret).length = 16 ∧
    ∀ i ∈ Instr.drtn8 :: List.replicate 16 Instr.dret, i = .dret ∨ i = .drtn8 := by decide
theorem witness_NestedCalls :
    ({ State.reset with sp := 14 } : State).sp.val + ([0x200#12, 0x300#12] : List Addr).length ≤ 16 ∧
    [Instr.drtn8, Instr.dret].length = ([0x200#12, 0x300#12] : List Addr).length ∧
    (∀ i ∈ [Instr.drtn8, Instr.dret], i = .dret ∨ i = .drtn8) ∧ 13 < ({ State.reset with sp := 14 } : State).sp.val := by
  decide
theorem witness_Intensity : 0x0E00 ≤ (0x0E00#16).toNat ∧ (0x0E07#16).toNat ≤ 0x0E07 ∧
    field 0x7010#16 11 5 = 0x0E#5 ∧ bit 0x7010#16 4 = true ∧ field 0x9FFD#16 12 4 = 0x9#4 ∧
    field 0xAFFE#16 12 4 = 0xA#4 := by decide
theorem witness_DpNoOps : (0x0DFF#16).toNat < 0x0E00 ∧ 0x0E08 ≤ (0x0E08#16).toNat ∧ (0x0FFF#16).toNat < 0x1000 ∧
    field 0x77EF#16 11 5 = 0x0E#5 ∧ bit 0x77EF#16 4 = false := by decide
theorem witness_Dsxy : field 0xE820#16 12 4 = 0xE#4 := by decide
theorem witness_Vectors :
    (Instr.dsvec true 31 false 0 = .dsvec true 31 false 0 ∧ (1 : Int) = 1) ∧
    (Instr.dlvec true 31 false 0 = .dlvec true 31 false 0 ∧ (8 : Int) = 8) := by decide
theorem witness_Point : 0x7800 ≤ (0x7800#16).toNat ∧ (0x7FFF#16).toNat ≤ 0x7FFF := by decide
theorem witness_DisplayList : State.reset.dl.length ≤ 32768 ∧
    ({ State.reset with dl := List.replicate 32768 (.point 0 0 7) } : State).dl.length ≤ 32768 :=
  ⟨by decide, by rw [List.length_replicate]⟩
theorem witness_OnlyThree : exec .nop State.reset = .next State.reset ∧ appendsEntry .nop = false ∧
    appendsEntry .dpt = true ∧ State.reset.dl.length < 32768 ∧
    view (exec .dpt State.reset) (fun t => t.dl) = some [.point 0 0 7] := ⟨rfl, rfl, rfl, by decide, by decide⟩
theorem witness_OnlyThree_full :
    exec .nop { State.reset with dl := List.replicate 32768 (.point 0 0 7) } =
      .next { State.reset with dl := List.replicate 32768 (.point 0 0 7) } ∧
    32768 ≤ (List.replicate 32768 (Vec.point 0 0 7)).length := ⟨rfl, by rw [List.length_replicate]⟩
theorem witness_StepRuns : (State.reset.placeMpWord 0x1005).calls = .mpStep :: [] ∧
    (State.reset.placeMpWord 0x1005).halt = false ∧
    decodeMp ((State.reset.placeMpWord 0x1005).readMem 0x050) = some (.law false 5) ∧
    (State.reset.placeDpWord 0x7800).calls = .dpStep :: [] ∧ (State.reset.placeDpWord 0x7800).dpEnabled = true ∧
    (State.reset.placeDpWord 0x7800).dpHalt = false ∧
    decodeDp ((State.reset.placeDpWord 0x7800).readMem 0x100) = some .dpt := by decide +kernel
theorem witness_StepRuns_gates :
    ({ State.reset with calls := [.mpStep], halt := true } : State).calls = .mpStep :: [] ∧
    ({ State.reset with calls := [.dpStep] } : State).calls = .dpStep :: [] ∧
    ({ State.reset with calls := [.dpStep] } : State).dpHalt = true := ⟨rfl, rfl, rfl⟩
theorem witness_Stopped : ({ State.reset with halt := true } : State).halt = true ∧ State.reset.dpHalt = true ∧
    ({ State.reset with dpEnabled := false } : State).dpEnabled = false ∧
    ({ State.reset with halt := true } : State).ended := ⟨rfl, rfl, rfl, rfl, .inl rfl⟩
theorem witness_ProgramCounterTables : (State.reset.placeMpWord 0x5060).halt = false ∧
    decodeMp ((State.reset.placeMpWord 0x5060).readMem (State.reset.placeMpWord 0x5060).pc) = some (.isz 0x060) ∧
    (State.reset.placeDpWord 0xB000).dpEnabled = true ∧ (State.reset.placeDpWord 0xB000).dpHalt = false ∧
    decodeDp ((State.reset.placeDpWord 0xB000).readMem (State.reset.placeDpWord 0xB000).dpPc) = some .dret := by
  decide +kernel
theorem witness_CycCounts : view (mpStep (State.reset.placeMpWord 0x0000)) (fun t => t.cyc) = some 1 ∧
    view (mpStep { State.reset with halt := true }) (fun t => t.cyc) = some 0 ∧
    view (dpStep (State.reset.placeDpWord 0x0000)) (fun t => t.cyc) = some 0 := by decide +kernel
theorem witness_EveryStepKeepsTheInvariant : (State.reset.placeMpWord 0xF800).Inv ∧
    view (step (State.reset.placeMpWord 0xF800)) (fun t => t.halt) = some true :=
  ⟨⟨by decide +kernel, by decide +kernel,
    fun c h => absurd (show ConsoleEvent.char c ∈ ([] : List ConsoleEvent) from h) List.not_mem_nil⟩, by decide +kernel⟩
theorem witness_ProcessorsReach : view (dpStep (State.reset.placeDpWord 0x7800)) (fun t => t.dl) = some [.point 0 0 7] ∧
    view (mpStep (State.reset.placeMpWord 0xE084)) (fun t => t.dpHalt) = some true := by decide +kernel
theorem witness_DpIsBlind : (State.reset.placeDpWord 0x7800).sameForDp { State.reset.placeDpWord 0x7800 with ac := 5 } ∧
    view (dpStep (State.reset.placeDpWord 0x7800)) (fun t => t.dl.length) = some 1 ∧
    view (dpStep { State.reset.placeDpWord 0x7800 with ac := 5 }) (fun t => t.dl.length) = some 1 :=
  ⟨⟨rfl, rfl, rfl, rfl, rfl, rfl, rfl, rfl, rfl, rfl, rfl⟩, by decide +kernel, by decide +kernel⟩
theorem witness_MpIsBlind : (State.reset.placeMpWord 0x1005).sameMpRegs { State.reset.placeMpWord 0x1005 with x := 5 } ∧
    (State.reset.placeMpWord 0x1005).sameDpControl { State.reset.placeMpWord 0x1005 with x := 5 } ∧
    (State.reset.placeMpWord 0x1005).sameHostSide { State.reset.placeMpWord 0x1005 with x := 5 } ∧
    view (mpStep (State.reset.placeMpWord 0x1005)) (fun t => t.ac) = some 5 ∧
    view (mpStep { State.reset.placeMpWord 0x1005 with x := 5 }) (fun t => t.ac) = some 5 :=
  ⟨⟨rfl, rfl, rfl, rfl, rfl, rfl, rfl⟩, ⟨rfl, rfl, rfl, rfl⟩, ⟨rfl, rfl, rfl, rfl, rfl⟩, by decide +kernel,
    by decide +kernel⟩
theorem witness_OnlyResetAndPowerOn : DriverOp.mpStep ≠ .reset ∧ DriverOp.mpStep ≠ .powerOn ∧
    perform .mpStep { State.reset with halt := true } = .next { State.reset with halt := true } ∧
    dpStep State.reset = .next State.reset ∧ State.reset.dpHalt = true := ⟨by decide, by decide, rfl, rfl, rfl⟩
theorem witness_Console : view (step (State.reset.placeMpWord 0xF800)) (fun t => t.console) =
      some [.haltDiag 0x051 0] ∧
    exec .nop State.reset = .next State.reset ∧ appendsEvent .nop = false := ⟨by decide +kernel, rfl, rfl⟩
theorem witness_Writers : exec .nop State.reset = .next State.reset ∧ storesMemory .nop = false ∧
    writesLink .nop = false ∧ movesStack .nop = false ∧ Instr.nop ≠ .hlt ∧
    (writesPc .nop = false ∧ writesAc .nop = false ∧ writesDpPc .nop = false ∧ writesX .nop = false ∧ writesY .nop = false) ∧
    (writesDpHalt .nop = false ∧ writesIntensity .nop = false ∧ appendsEntry .nop = false ∧ appendsEvent .nop = false) ∧
    (Instr.dac 0x060 = .dac 0x060 ∧ (0x061#12 : Addr) ≠ State.reset.ea 0x060) ∧
    view (exec (.dac 0x060) State.reset) (fun t => t.readMem 0x060) = some 0 :=
  ⟨rfl, rfl, rfl, rfl, by decide, ⟨rfl, rfl, rfl, rfl, rfl⟩, ⟨rfl, rfl, rfl, rfl⟩, ⟨rfl, by decide +kernel⟩,
    by decide +kernel⟩
theorem witness_Assembled : (0x04F#12 : Addr) ≠ 0x050 ∧ (0x053#12 : Addr) ≠ 0x052 ∧ (0x053#12 : Addr) ≠ 0x051 ∧
    (0x053#12 : Addr) ≠ 0x050 := by decide

end Sys2Proof.Tests
end

section
/-! SUPPORT. What a step of either processor and of the driver can do, said once (R91, R140, R270). -/

namespace Sys2Proof.Machine

variable {s t : State} {i : Instr} {w : Word}

/-- Every word the MP decodes is an instruction of the MP (R91). -/
theorem unit_of_decodeMp (h : decodeMp w = some i) : i.unit = .mp := by
  unfold decodeMp at h
  split at h
  case h_15 => unfold decodeIot at h; split at h <;> cases h <;> rfl
  case h_16 => unfold decodeOpr at h; split at h <;> cases h <;> rfl
  all_goals cases h <;> rfl

/-- Every word the DP decodes is an instruction of the DP (R91). -/
theorem unit_of_decodeDp (h : decodeDp w = some i) : i.unit = .dp := by
  unfold decodeDp at h
  split at h
  case h_1 => unfold decodeDpZero at h; split at h <;> cases h <;> rfl
  case h_8 => unfold decodeDpSeven at h; split at h <;> [skip; split at h] <;> cases h <;> rfl
  case h_9 => split at h <;> cases h <;> rfl
  all_goals cases h <;> rfl

/-- A step of the MP does nothing when it is halted, and else runs an instruction of its own after the fetch (R140). -/
theorem mpStep_cases (h : mpStep s = .next t) :
    (s.halt = true ∧ t = s) ∨
    ∃ i, s.halt = false ∧ decodeMp (s.readMem s.pc) = some i ∧ exec i s.mpFetch = .next t := by
  unfold mpStep at h
  split at h
  · next hh => cases h; exact .inl ⟨hh, rfl⟩
  · next hh =>
    split at h
    · next i hd => exact .inr ⟨i, by simpa using hh, hd, h⟩
    · cases h

/-- A step of the DP does nothing when its gate is closed, and else runs an instruction of its own after the fetch
(R270). -/
theorem dpStep_cases (h : dpStep s = .next t) :
    ((s.dpEnabled = false ∨ s.dpHalt = true) ∧ t = s) ∨
    ∃ i, s.dpEnabled = true ∧ s.dpHalt = false ∧ decodeDp (s.readMem s.dpPc) = some i ∧ exec i s.dpFetch = .next t := by
  unfold dpStep at h
  split at h
  · next hg =>
    obtain ⟨he, hh⟩ : s.dpEnabled = true ∧ s.dpHalt = false := by simpa using hg
    split at h
    · next i hd => exact .inr ⟨i, he, hh, hd, h⟩
    · cases h
  · next hg =>
    cases h
    exact .inl ⟨by simpa [or_iff_not_imp_left] using hg, rfl⟩

/-- Taking the next operation changes the model's own fields alone. -/
theorem nextCall_frame (s : State) :
    (nextCall s).2 = { s with calls := (nextCall s).2.calls, asked := (nextCall s).2.asked } := by
  unfold nextCall
  split <;> rfl

end Sys2Proof.Machine
end

section
/-! SUPPORT. The meanings that act by cases, each as one record update of the state before, so that what they write and
leave is read off. -/

namespace Sys2Proof.Machine

theorem State.skipIf_eq (s : State) (c : Bool) : s.skipIf c = { s with pc := if c then s.pc + 1 else s.pc } := by
  cases c <;> rfl

theorem execIotKbd_eq (read clear test : Bool) (s : State) :
    execIotKbd read clear test s = .next { s with
      ac := if read then s.keyboard else s.ac
      keyboard := if clear then 0 else s.keyboard
      pc := if test && !clear && s.keyboard != 0 then s.pc + 1 else s.pc } := by
  cases read <;> cases clear <;> simp [execIotKbd, State.skipIf_eq, State.readKeyboard, State.clearKeyboard]

theorem execIotDpc_eq (toggle start stop : Bool) (s : State) :
    execIotDpc toggle start stop s = .next { s with
      dpEnabled := xor toggle s.dpEnabled
      dpPc := if start then s.ac.setWidth _ else s.dpPc
      dpHalt := stop || (!start && s.dpHalt) } := by
  cases toggle <;> cases start <;> cases stop <;> simp [execIotDpc, State.toggleDp, State.startDp, State.haltDp]

theorem execIotLpn_eq (readX readY test : Bool) (s : State) :
    execIotLpn readX readY test s = .next { s with
      ac := if readY then s.lightPenY else if readX then s.lightPenX else s.ac
      pc := if test && s.lightPenHit then s.pc + 1 else s.pc } := by
  cases readX <;> cases readY <;> simp [execIotLpn, State.skipIf_eq]

theorem execIotTty_eq (s : State) :
    execIotTty s = .next { s with
      console := s.console ++ if printable (charCode s.ac) then [.char (charCode s.ac)] else [] } := by
  unfold execIotTty
  split <;> simp [State.consoleAppend]

theorem State.dlAppend_eq (s : State) (e : Vec) :
    s.dlAppend e = { s with dl := if s.dl.length < Config.maxVec then s.dl ++ [e] else s.dl } := by
  unfold State.dlAppend; split <;> rfl

/-- What the micro-ops of OPR read and write (R246 to R254): AC, Link and DP.AC. -/
def State.oprPart (s : State) : Word × Bool × Word := (s.ac, s.link, s.dpAc)

/-- Write AC, Link and DP.AC together. -/
def State.setOprPart (s : State) (r : Word × Bool × Word) : State := { s with ac := r.1, link := r.2.1, dpAc := r.2.2 }

/-- An operation on the state that is an operation on AC, Link and DP.AC alone. -/
def ActsOnOprPart (f : State → State) : Prop :=
  ∃ g : Word × Bool × Word → Word × Bool × Word, ∀ s, f s = s.setOprPart (g s.oprPart)

theorem ActsOnOprPart.micro {f : State → State} (hf : ActsOnOprPart f) (c : Bool) :
    ActsOnOprPart (State.micro c f) := by
  cases c
  · exact ⟨id, fun _ => rfl⟩
  · exact hf

theorem ActsOnOprPart.comp {f f' : State → State} (hf' : ActsOnOprPart f') (hf : ActsOnOprPart f) :
    ActsOnOprPart (f' ∘ f) := by
  obtain ⟨g, hg⟩ := hf
  obtain ⟨g', hg'⟩ := hf'
  exact ⟨g' ∘ g, fun s => by rw [Function.comp_apply, hg', hg]; rfl⟩

/-- The selected micro-ops of one OPR word, in order, act on AC, Link and DP.AC alone (R240, R241). -/
theorem execOpr_actsOnOprPart (cla cll cma cml iac stl xda rl1 rr1 : Bool) :
    ∃ g : Word × Bool × Word → Word × Bool × Word,
      ∀ s, execOpr cla cll cma cml iac stl xda rl1 rr1 s = .next (s.setOprPart (g s.oprPart)) := by
  have hcla : ActsOnOprPart State.cla := ⟨fun r => (0, r.2), fun _ => rfl⟩
  have hcll : ActsOnOprPart State.cll := ⟨fun r => (r.1, false, r.2.2), fun _ => rfl⟩
  have hcma : ActsOnOprPart State.cma := ⟨fun r => (~~~r.1, r.2), fun _ => rfl⟩
  have hcml : ActsOnOprPart State.cml := ⟨fun r => (r.1, !r.2.1, r.2.2), fun _ => rfl⟩
  have hiac : ActsOnOprPart State.iac :=
    ⟨fun r => ((addCarry r.1 1).2, (addCarry r.1 1).1, r.2.2), fun _ => rfl⟩
  have hstl : ActsOnOprPart State.stl := ⟨fun r => (r.1, true, r.2.2), fun _ => rfl⟩
  have hxda : ActsOnOprPart State.xda := ⟨fun r => (r.2.2, r.2.1, r.1), fun _ => rfl⟩
  have hrl1 : ActsOnOprPart State.rl1 :=
    ⟨fun r => ((rotl17 (r.2.1, r.1)).2, (rotl17 (r.2.1, r.1)).1, r.2.2), fun _ => rfl⟩
  have hrr1 : ActsOnOprPart State.rr1 :=
    ⟨fun r => ((rotr17 (r.2.1, r.1)).2, (rotr17 (r.2.1, r.1)).1, r.2.2), fun _ => rfl⟩
  obtain ⟨g, hg⟩ := ((((((((hrr1.micro rr1).comp (hrl1.micro rl1)).comp (hxda.micro xda)).comp
    (hstl.micro stl)).comp (hiac.micro iac)).comp (hcml.micro cml)).comp (hcma.micro cma)).comp
    (hcll.micro cll)).comp (hcla.micro cla)
  exact ⟨g, fun s => congrArg _ (hg s)⟩

end Sys2Proof.Machine
end

section
/-! PROOF. Noninterference (R43). Replacing all that a processor cannot reach commutes with its every step; the two blindness
statements are that square read from two states that agree on the rest. -/

namespace Sys2Proof.Machine

variable {s t : State} {i : Instr}

/-- The state that is `s` in all the DP can reach, and `u` in all else. -/
def State.dpPartOver (s u : State) : State :=
  { u with
    mem := s.mem, dpPc := s.dpPc, x := s.x, y := s.y, dpHalt := s.dpHalt, dpEnabled := s.dpEnabled
    intensity := s.intensity, scaleSel := s.scaleSel, stk := s.stk, sp := s.sp, dl := s.dl }

/-- The state that is `s` in all the MP can reach, and `u` in all else. -/
def State.mpPartOver (s u : State) : State :=
  { s with
    x := u.x, y := u.y, intensity := u.intensity, scaleSel := u.scaleSel, stk := u.stk, sp := u.sp, dl := u.dl
    calls := u.calls, asked := u.asked }

theorem State.sameForDp_iff : s.sameForDp t ↔ s.dpPartOver t = t := by
  constructor
  · rintro ⟨hmem, hpc, hx, hy, hhalt, hen, hint, hsc, hstk, hsp, hdl⟩
    simp only [State.dpPartOver, hmem, hpc, hx, hy, hhalt, hen, hint, hsc, hstk, hsp, hdl]
  · intro h
    rw [← h]
    exact ⟨rfl, rfl, rfl, rfl, rfl, rfl, rfl, rfl, rfl, rfl, rfl⟩

theorem State.sameForMp_iff :
    (s.mem = t.mem ∧ s.sameMpRegs t ∧ s.sameDpControl t ∧ s.sameHostSide t) ↔ s.mpPartOver t = t := by
  constructor
  · rintro ⟨hmem, ⟨hpc, hac, hir, hlink, hhalt, hrun, hcyc⟩, ⟨hdac, hdhalt, hdpc, hden⟩, ⟨hkbd, hlx, hly, hhit, hcon⟩⟩
    simp only [State.mpPartOver, hmem, hpc, hac, hir, hlink, hhalt, hrun, hcyc, hdac, hdhalt, hdpc, hden, hkbd, hlx,
      hly, hhit, hcon]
  · intro h
    rw [← h]
    exact ⟨rfl, ⟨rfl, rfl, rfl, rfl, rfl, rfl, rfl⟩, ⟨rfl, rfl, rfl, rfl⟩, ⟨rfl, rfl, rfl, rfl, rfl⟩⟩

theorem State.push_dpPartOver (s u : State) (v : Addr) :
    (s.dpPartOver u).push v = (s.push v).dpPartOver u := by
  by_cases h : s.sp.val < 16
  · rw [State.push_of_room s v h]; exact State.push_of_room (s.dpPartOver u) v h
  · rw [State.push_of_full s v h]; exact State.push_of_full (s.dpPartOver u) v h

theorem State.ret_dpPartOver (s u : State) : (s.dpPartOver u).ret = s.ret.dpPartOver u := by
  by_cases h : s.sp = 0
  · rw [State.ret_of_empty s h]; exact State.ret_of_empty (s.dpPartOver u) h
  · have h : 0 < s.sp.val := Nat.pos_of_ne_zero fun e => h (Fin.ext e)
    rw [State.ret_of_entry s h]; exact State.ret_of_entry (s.dpPartOver u) h

theorem State.dlAppend_dpPartOver (s u : State) (e : Vec) :
    (s.dpPartOver u).dlAppend e = (s.dlAppend e).dpPartOver u := by
  simp only [State.dlAppend_eq]; rfl

theorem State.vector_dpPartOver (s u : State) (sx : Bool) (dx : BitVec 5) (sy : Bool) (dy : BitVec 5) (m : Nat) :
    (s.dpPartOver u).vector sx dx sy dy m = (s.vector sx dx sy dy m).dpPartOver u := by
  simp only [State.vector, State.dlAppend_eq]; rfl

/-- A DP instruction commutes with replacing all that the DP cannot reach. -/
theorem exec_dpPartOver (hi : i.unit = .dp) (h : exec i s = .next t) (u : State) :
    exec i (s.dpPartOver u) = .next (t.dpPartOver u) := by
  cases i with
  | djms addr =>
    cases h
    exact congrArg (fun r : State => Host.Outcome.next { r with dpPc := addr }) (s.push_dpPartOver u _)
  | dret | drtn8 => cases h; exact congrArg _ (s.ret_dpPartOver u)
  | dpt => cases h; exact congrArg _ (s.dlAppend_dpPartOver u _)
  | dsvec | dlvec => cases h; exact congrArg _ (s.vector_dpPartOver u _ _ _ _ _)
  | dintp | dnop | dlxa | dlya | djmp | dint7 | dnop7 | dhlt8 | dint | dscl | dlxb | dlyb | dsxy | dhlt => cases h; rfl
  | _ => cases hi

theorem dpStep_dpPartOver (h : dpStep s = .next t) (u : State) : dpStep (s.dpPartOver u) = .next (t.dpPartOver u) := by
  rcases dpStep_cases h with ⟨hgate, rfl⟩ | ⟨i, hen, hhalt, hd, hx⟩
  · rcases hgate with hg | hg <;> simp [dpStep, State.dpPartOver, hg]
  · rw [dpStep_of_decode (s.dpPartOver u) i hen hhalt hd]
    exact exec_dpPartOver (unit_of_decodeDp hd) hx u

/-- An MP instruction commutes with replacing all that the MP cannot reach. -/
theorem exec_mpPartOver (hi : i.unit = .mp) (h : exec i s = .next t) (u : State) :
    exec i (s.mpPartOver u) = .next (t.mpPartOver u) := by
  cases i with
  | opr cla cll cma cml iac stl xda rl1 rr1 =>
    obtain ⟨g, hg⟩ := execOpr_actsOnOprPart cla cll cma cml iac stl xda rl1 rr1
    simp only [exec, hg] at h ⊢
    cases h; rfl
  | isz | skp => cases h; simp only [exec, execIsz, execSkp, State.skipIf_eq]; rfl
  | iotKbd => simp only [exec, execIotKbd_eq] at h ⊢; cases h; rfl
  | iotDpc => simp only [exec, execIotDpc_eq] at h ⊢; cases h; rfl
  | iotLpn => simp only [exec, execIotLpn_eq] at h ⊢; cases h; rfl
  | iotTty => simp only [exec, execIotTty_eq] at h ⊢; cases h; rfl
  | nop | law | jmp | dac | xam | add | and | lda | jms | ior | ral | rar | iotCyc | iotNone | hlt => cases h; rfl
  | _ => cases hi

theorem mpStep_mpPartOver (h : mpStep s = .next t) (u : State) : mpStep (s.mpPartOver u) = .next (t.mpPartOver u) := by
  rcases mpStep_cases h with ⟨hhalt, rfl⟩ | ⟨i, hhalt, hd, hx⟩
  · simp [mpStep, State.mpPartOver, hhalt]
  · rw [mpStep_of_decode (s.mpPartOver u) i hhalt hd]
    exact exec_mpPartOver (unit_of_decodeMp hd) hx u

/-- Settles O55: the second state is the DP's part of the first over itself, so its step is the first's, put over it. -/
theorem dpIsBlindToMpAndHostState : Obligations.DpIsBlindToMpAndHostState := by
  intro s t s' t' hst hs ht
  have hs := dpStep_dpPartOver hs t
  rw [State.sameForDp_iff.mp hst, ht] at hs
  cases hs
  exact State.sameForDp_iff.mpr rfl

/-- Settles O56, as O55, with the MP's part. -/
theorem mpIsBlindToTheBeam : Obligations.MpIsBlindToTheBeam := by
  intro s t s' t' hmem hregs hctl hhost hs ht
  have hs := mpStep_mpPartOver hs t
  rw [State.sameForMp_iff.mp ⟨hmem, hregs, hctl, hhost⟩, ht] at hs
  cases hs
  exact State.sameForMp_iff.mpr rfl

end Sys2Proof.Machine
end

section
/-! PROOF. The named writers of each field (R20 to R40, R66), and the clauses of it that later proofs cite. -/

namespace Sys2Proof.Machine

variable {s t : State} {i : Instr}

/-- The premise of the DP.AC clause below is false of an OPR, said as a rewrite so that `simp` need not search for it. -/
theorem forall_ne_opr_iff (cla cll cma cml iac stl xda rl1 rr1 : Bool) :
    (∀ a b c d e f g h k, Instr.opr cla cll cma cml iac stl xda rl1 rr1 ≠ .opr a b c d e f g h k) ↔ False :=
  iff_false_intro fun h => h _ _ _ _ _ _ _ _ _ rfl

/-- Settles O59: for each instruction, the state it answers, and the pieces that it is a named writer of; every other
clause is about a field that the answer has from `s`. (`eq_def` is the writers' definition as one equation: their equation
lemmas, one for each constructor, take `simp` far longer.) -/
theorem eachPieceOfStateHasItsNamedWriters : Obligations.EachPieceOfStateHasItsNamedWriters := by
  intro i s t h
  cases i with
  | nop | iotNone | dnop | dnop7 => cases h; simp
  | law | and | lda | ior | iotCyc => cases h; simp [writesAc.eq_def]
  | add | ral | rar => cases h; simp [writesAc.eq_def, writesLink.eq_def]
  | jmp => cases h; simp [writesPc.eq_def]
  | dac => cases h; simp +contextual [storesMemory.eq_def, State.readMem_writeMem]
  | xam =>
    cases h
    simp +contextual [storesMemory.eq_def, writesAc.eq_def, State.readMem, Memory.readWord_writeWord_other]
  | isz | jms =>
    cases h
    simp +contextual [storesMemory.eq_def, writesPc.eq_def, State.readMem, Memory.readWord_writeWord_other]
  | skp => cases h; simp [writesPc.eq_def]
  | iotKbd => simp only [exec, execIotKbd_eq] at h; cases h; simp [writesAc.eq_def, writesPc.eq_def]
  | iotDpc => simp only [exec, execIotDpc_eq] at h; cases h; simp [writesDpPc.eq_def, writesDpHalt.eq_def]
  | iotTty => simp only [exec, execIotTty_eq] at h; cases h; simp [appendsEvent.eq_def]
  | iotLpn => simp only [exec, execIotLpn_eq] at h; cases h; simp [writesAc.eq_def, writesPc.eq_def]
  | hlt => cases h; simp [appendsEvent.eq_def]
  | opr cla cll cma cml iac stl xda rl1 rr1 =>
    obtain ⟨g, hg⟩ := execOpr_actsOnOprPart cla cll cma cml iac stl xda rl1 rr1
    simp only [exec, hg] at h
    cases h
    simp [State.setOprPart, ↓forall_ne_opr_iff, writesAc.eq_def, writesLink.eq_def]
  | dintp | dint7 | dint => cases h; simp [State.setIntensity, writesIntensity.eq_def]
  | dlxa | dlxb => cases h; simp [State.loadX, writesX.eq_def]
  | dlya | dlyb => cases h; simp [State.loadY, writesY.eq_def]
  | dsxy => cases h; simp [writesX.eq_def, writesY.eq_def]
  | dsvec | dlvec => cases h; simp [State.vector, writesX.eq_def, writesY.eq_def, appendsEntry.eq_def]
  | dpt => cases h; simp [appendsEntry.eq_def]
  | djmp => cases h; simp [writesDpPc.eq_def]
  | djms => cases h; simp [writesDpPc.eq_def, movesStack.eq_def]
  | drtn8 | dret => cases h; simp [writesDpPc.eq_def, writesDpHalt.eq_def, movesStack.eq_def]
  | dhlt8 | dhlt => cases h; simp [writesDpHalt.eq_def]
  | dscl => cases h; simp

theorem exec_mem (h : exec i s = .next t) (hi : storesMemory i = false) : t.mem = s.mem :=
  (eachPieceOfStateHasItsNamedWriters i s t h).1 hi

theorem exec_dl (h : exec i s = .next t) (hi : appendsEntry i = false) : t.dl = s.dl := by
  obtain ⟨-, -, -, -, -, -, -, -, -, -, -, -, -, -, hdl, -⟩ := eachPieceOfStateHasItsNamedWriters i s t h
  exact hdl hi

theorem exec_console (h : exec i s = .next t) (hi : appendsEvent i = false) : t.console = s.console := by
  obtain ⟨-, -, -, -, -, -, -, -, -, -, -, -, -, -, -, hcon, -⟩ := eachPieceOfStateHasItsNamedWriters i s t h
  exact hcon hi

theorem exec_dpEnabled (h : exec i s = .next t) (hi : ∀ a b c, i ≠ .iotDpc a b c) : t.dpEnabled = s.dpEnabled := by
  obtain ⟨-, -, -, -, -, -, -, -, -, -, -, -, -, -, -, -, -, -, -, -, hen, -⟩ :=
    eachPieceOfStateHasItsNamedWriters i s t h
  exact hen hi

end Sys2Proof.Machine
end

section
/-! PROOF. What each processor leaves alone (R43, R350), and what keeps a halt (R24, R282). -/

namespace Sys2Proof.Machine

variable {s t : State} {i : Instr}

/-- A DP step leaves all that the DP cannot reach: `s` is `s.dpPartOver s`, so its step commutes with itself. -/
theorem dpStep_keeps_mp_and_host (h : dpStep s = .next t) : s.sameMpRegs t ∧ s.sameHostSide t ∧ t.dpAc = s.dpAc := by
  have hover : t = t.dpPartOver s := Host.Outcome.next.inj (h.symm.trans (dpStep_dpPartOver h s))
  rw [hover]
  exact ⟨⟨rfl, rfl, rfl, rfl, rfl, rfl, rfl⟩, ⟨rfl, rfl, rfl, rfl, rfl⟩, rfl⟩

/-- An MP step leaves all that the MP cannot reach, by the same argument. -/
theorem mpStep_keeps_beam (h : mpStep s = .next t) : s.sameBeam t := by
  have hover : t = t.mpPartOver s := Host.Outcome.next.inj (h.symm.trans (mpStep_mpPartOver h s))
  rw [hover]
  exact ⟨rfl, rfl, rfl, rfl, rfl, rfl, rfl⟩

theorem storesMemory_of_dp (hi : i.unit = .dp) : storesMemory i = false := by
  cases i with
  | dac | xam | isz | jms => cases hi
  | _ => rfl

theorem dpStep_mem (h : dpStep s = .next t) : t.mem = s.mem := by
  rcases dpStep_cases h with ⟨-, rfl⟩ | ⟨i, -, -, hd, hx⟩
  · rfl
  · exact exec_mem (s := s.dpFetch) hx (storesMemory_of_dp (unit_of_decodeDp hd))

theorem dpStep_dpEnabled (h : dpStep s = .next t) : t.dpEnabled = s.dpEnabled := by
  rcases dpStep_cases h with ⟨-, rfl⟩ | ⟨i, -, -, hd, hx⟩
  · rfl
  · refine exec_dpEnabled (s := s.dpFetch) hx ?_
    rintro _ _ _ rfl
    cases unit_of_decodeDp hd

/-- Settles O54: noninterference with itself, and the named writers for what the DP reads but does not write. -/
theorem processorsReachEachOtherOnlyAsListed : Obligations.ProcessorsReachEachOtherOnlyAsListed := by
  refine ⟨fun s t h => ?_, fun s t => mpStep_keeps_beam⟩
  obtain ⟨hregs, hhost, hac⟩ := dpStep_keeps_mp_and_host h
  exact ⟨dpStep_mem h, hregs, hhost, hac, dpStep_dpEnabled h⟩

/-- Settles O57: a halted processor's step does nothing, and a DP step leaves the MP's registers. -/
theorem onlyResetAndPowerOnRestartAHaltedMp : Obligations.OnlyResetAndPowerOnRestartAHaltedMp := by
  constructor
  · intro op s t hreset hpower hs h
    cases op with
    | reset => exact absurd rfl hreset
    | powerOn => exact absurd rfl hpower
    | mpStep =>
      rcases mpStep_cases h with ⟨-, rfl⟩ | ⟨i, hrun, -, -⟩
      · exact hs
      · cases hrun.symm.trans hs
    | dpStep =>
      obtain ⟨⟨-, -, -, -, hhalt, -⟩, -⟩ := dpStep_keeps_mp_and_host h
      exact hhalt ▸ hs
    | dlClear | setKeyboard | setLightPen | peek | poke | readDisplayList | readConsole => cases h; exact hs
  · intro s t hs h
    rcases dpStep_cases h with ⟨-, rfl⟩ | ⟨i, -, hrun, -, -⟩
    · exact hs
    · cases hrun.symm.trans hs

end Sys2Proof.Machine
end

section
/-! PROOF. The state invariant (R36, R45, R222) and the append-only Console (R40). -/

namespace Sys2Proof.Machine

variable {s t : State} {i : Instr}

/-- The four instructions that store in Memory store whole words. -/
theorem exec_mem_wf (h : exec i s = .next t) (hs : s.mem.wf = true) : t.mem.wf = true := by
  cases hi : storesMemory i
  · rwa [exec_mem h hi]
  · cases i with
    | dac | xam | jms => cases h; exact Memory.writeWord_wf _ _ _ hs
    | isz => cases h; simpa using Memory.writeWord_wf _ _ _ hs
    | _ => cases hi

/-- The three instructions that append to the DisplayList do it through the bounded append. -/
theorem exec_dl_length_le (h : exec i s = .next t) (hs : s.dl.length ≤ Config.maxVec) :
    t.dl.length ≤ Config.maxVec := by
  cases hi : appendsEntry i
  · rwa [exec_dl h hi]
  · cases i with
    | dsvec | dlvec | dpt => cases h; exact State.dlAppend_length_le s _ hs
    | _ => cases hi

/-- An instruction appends to the Console nothing but characters that the console takes, and halt diagnostics. -/
theorem exec_console_append (h : exec i s = .next t) :
    ∃ evs, t.console = s.console ++ evs ∧ ∀ c, ConsoleEvent.char c ∈ evs → printable c = true := by
  cases hi : appendsEvent i
  · exact ⟨[], by simp [exec_console h hi]⟩
  · cases i with
    | iotTty =>
      simp only [exec, execIotTty_eq] at h
      cases h
      exact ⟨_, rfl, by split <;> simp_all⟩
    | hlt => cases h; exact ⟨_, rfl, by simp⟩
    | _ => cases hi

theorem exec_inv (h : exec i s = .next t) (hs : s.Inv) : t.Inv := by
  obtain ⟨hmem, hdl, hcon⟩ := hs
  obtain ⟨evs, he, hp⟩ := exec_console_append h
  refine ⟨exec_mem_wf h hmem, exec_dl_length_le h hdl, fun c hc => ?_⟩
  rw [he] at hc
  exact (List.mem_append.mp hc).elim (hcon c) (hp c)

theorem mpStep_inv (h : mpStep s = .next t) (hs : s.Inv) : t.Inv := by
  rcases mpStep_cases h with ⟨-, rfl⟩ | ⟨i, -, -, hx⟩
  · exact hs
  · exact exec_inv (s := s.mpFetch) hx hs

theorem dpStep_inv (h : dpStep s = .next t) (hs : s.Inv) : t.Inv := by
  rcases dpStep_cases h with ⟨-, rfl⟩ | ⟨i, -, -, -, hx⟩
  · exact hs
  · exact exec_inv (s := s.dpFetch) hx hs

theorem perform_inv {op : DriverOp} (h : perform op s = .next t) (hs : s.Inv) : t.Inv := by
  obtain ⟨hmem, hdl, hcon⟩ := hs
  cases op with
  | mpStep => exact mpStep_inv h ⟨hmem, hdl, hcon⟩
  | dpStep => exact dpStep_inv h ⟨hmem, hdl, hcon⟩
  | reset | powerOn | dlClear => cases h; exact ⟨hmem, Nat.zero_le _, hcon⟩
  | poke => cases h; exact ⟨Memory.writeWord_wf _ _ _ hmem, hdl, hcon⟩
  | setKeyboard | setLightPen | peek | readDisplayList | readConsole => cases h; exact ⟨hmem, hdl, hcon⟩

/-- Settles O52: every operation keeps the invariant, and choosing the operation touches no field it speaks of. -/
theorem everyStepKeepsTheInvariant : Obligations.EveryStepKeepsTheInvariant := by
  intro s t hs h
  refine perform_inv h ?_
  rw [nextCall_frame]
  exact hs

/-- Settles O53. -/
theorem invariantHoldsAtReset : Obligations.InvariantHoldsAtReset :=
  ⟨State.reset_mem_wf, Nat.zero_le _, fun _ hc => nomatch hc⟩

theorem exec_console_grows (h : exec i s = .next t) : s.console <+: t.console := by
  obtain ⟨evs, he, -⟩ := exec_console_append h
  exact ⟨evs, he.symm⟩

theorem perform_console {op : DriverOp} (h : perform op s = .next t) : s.console <+: t.console := by
  cases op with
  | mpStep =>
    rcases mpStep_cases h with ⟨-, rfl⟩ | ⟨i, -, -, hx⟩
    · exact List.prefix_rfl
    · exact exec_console_grows (s := s.mpFetch) hx
  | dpStep =>
    rcases dpStep_cases h with ⟨-, rfl⟩ | ⟨i, -, -, -, hx⟩
    · exact List.prefix_rfl
    · exact exec_console_grows (s := s.dpFetch) hx
  | reset | powerOn | dlClear | setKeyboard | setLightPen | peek | poke | readDisplayList | readConsole =>
    cases h; exact List.prefix_rfl

/-- Settles O58: every instruction appends to the Console, and no other operation of the driver reaches it. -/
theorem consoleIsAppendOnly : Obligations.ConsoleIsAppendOnly := by
  refine ⟨fun s t h => ?_, fun i s t => exec_console⟩
  have hp := perform_console h
  rwa [nextCall_frame] at hp

end Sys2Proof.Machine
end

section
/-! PROOF. Nested calls of the DP (R273, R274). -/

namespace Sys2Proof.Machine

variable {s t : State} {i : Instr}

theorem execAll_append {is js : List Instr} (h : execAll is s = .next t) : execAll (is ++ js) s = execAll js t := by
  induction is generalizing s with
  | nil => cases h; rfl
  | cons i is ih =>
    simp only [execAll, List.cons_append] at h ⊢
    split at h
    · exact ih h
    · cases h
    · cases h

theorem exec_return (hi : i = .dret ∨ i = .drtn8) (s : State) : exec i s = .next s.ret := by
  rcases hi with rfl | rfl <;> rfl

/-- The state after a call from `s` to `a` with room in the stack. -/
def State.called (s : State) (a : Addr) (h : s.sp.val < 16) : State :=
  { s with dpPc := a, stk := s.stk.set s.sp.val s.dpPc h, sp := ⟨s.sp.val + 1, by omega⟩ }

theorem exec_djms_of_room (s : State) (a : Addr) (h : s.sp.val < 16) :
    exec (.djms a) s = .next (s.called a h) := by
  simp only [exec, execDjms, State.push_of_room s s.dpPc h, State.called]

/-- A return undoes a call, whatever happened in between to entries from the call's own level up. -/
theorem State.ret_called (s : State) (a : Addr) (h : s.sp.val < 16) (stk : Vector Addr 16)
    (hstk : stk[s.sp.val] = s.dpPc) : { s.called a h with stk := stk }.ret = { s with stk := stk } := by
  rw [State.ret_of_entry _ (Nat.succ_pos _)]
  simp [State.called, hstk]

/-- Settles O35, by induction on the calls: the first call and the last return enclose the nested rest. -/
theorem nestedCallsReturnToTheFirstCaller : Obligations.NestedCallsReturnToTheFirstCaller := by
  intro s targets
  induction targets generalizing s with
  | nil =>
    intro returns _ hlen _
    obtain rfl : returns = [] := List.length_eq_zero_iff.mp hlen
    exact ⟨s, rfl, rfl, fun _ _ _ => rfl⟩
  | cons a targets ih =>
    intro returns hroom hlen hret
    obtain ⟨inner, last, rfl⟩ : ∃ inner last, returns = inner ++ [last] := by
      have hne : returns ≠ [] := by rintro rfl; cases hlen
      exact ⟨_, _, (List.dropLast_append_getLast hne).symm⟩
    simp only [List.length_cons, List.length_append, List.length_nil] at hroom hlen
    have hlt : s.sp.val < 16 := by omega
    obtain ⟨t, hrun, hframe, hkept⟩ := ih (s.called a hlt) inner (by simp only [State.called]; omega) (by omega)
      fun i hi => hret i (List.mem_append_left _ hi)
    have hback : t.ret = { s with stk := t.stk } := by
      rw [hframe]
      refine s.ret_called a hlt t.stk ?_
      rw [hkept _ hlt (Nat.lt_succ_self _)]
      simp [State.called]
    refine ⟨t.ret, ?_, by rw [hback], fun k hk hlive => ?_⟩
    · simp only [List.map_cons, List.cons_append, execAll, exec_djms_of_room s a hlt]
      rw [← List.append_assoc, execAll_append hrun]
      simp only [execAll, exec_return (hret last (by simp))]
    · rw [State.ret_stk, hkept k hk (Nat.lt_succ_of_lt hlive)]
      simp [State.called, Nat.ne_of_gt hlive]

end Sys2Proof.Machine
end

section
/-! SUPPORT. Every word decodes on either processor (R110), and a step with an operation pending performs it (R351). -/

namespace Sys2Proof.Machine

theorem exists_decodeMp (w : Word) : ∃ i, decodeMp w = some i := by
  have hop := (field w 12 4).isLt
  unfold decodeMp
  interval_cases (field w 12 4).toNat <;> exact ⟨_, rfl⟩

theorem exists_decodeDp (w : Word) : ∃ i, decodeDp w = some i := by
  have hop := (field w 12 4).isLt
  unfold decodeDp
  interval_cases (field w 12 4).toNat <;> exact ⟨_, rfl⟩

theorem step_of_pending {s : State} {op : DriverOp} {rest : List DriverOp} (h : s.calls = op :: rest) :
    step s = perform op { s with calls := rest } := by
  simp only [step, nextCall_of_pending s op rest h]

end Sys2Proof.Machine
end

section
/-! PROOF. Memory is read as last written (R62, R63), and a word just stored at a program counter is what the next step
runs (R70, R74). -/

namespace Sys2Proof.Machine

variable {i : Instr} {w : Word}

/-- Settles O5: the two cases of the read-over-write law. -/
theorem memoryReadsTheWordLastWritten : Obligations.MemoryReadsTheWordLastWritten := fun s a b v =>
  ⟨by rw [State.readMem_writeMem, if_pos rfl], fun h => by rw [State.readMem_writeMem, if_neg h]⟩

/-- An MP word placed at PC is fetched and run by the next step (R142). -/
theorem step_placeMpWord (s : State) (hd : decodeMp w = some i) : step (s.placeMpWord w) =
    exec i { s with mem := s.mem.writeWord s.pc w, halt := false, ir := w, pc := s.pc + 1, cyc := s.cyc + 1 } := by
  have hw := s.mem.readWord_writeWord_same s.pc w
  calc step (s.placeMpWord w)
    _ = mpStep { s.writeMem s.pc w with halt := false } := step_of_pending (s := s.placeMpWord w) rfl
    _ = exec i (State.mpFetch { s.writeMem s.pc w with halt := false }) :=
      mpStep_of_decode _ i rfl ((congrArg decodeMp hw).trans hd)
    _ = _ := by simp only [State.mpFetch, State.readMem, State.writeMem, hw]

/-- A DP word placed at DP.PC is fetched and run by the next step; the DP fetch writes neither IR nor CYC (R272). -/
theorem step_placeDpWord (s : State) (hd : decodeDp w = some i) : step (s.placeDpWord w) =
    exec i { s with mem := s.mem.writeWord s.dpPc w, dpEnabled := true, dpHalt := false, dpPc := s.dpPc + 1 } := by
  have hw := s.mem.readWord_writeWord_same s.dpPc w
  calc step (s.placeDpWord w)
    _ = dpStep { s.writeMem s.dpPc w with dpEnabled := true, dpHalt := false } :=
      step_of_pending (s := s.placeDpWord w) rfl
    _ = _ := dpStep_of_decode _ i rfl rfl ((congrArg decodeDp hw).trans hd)

/-- The host's placement of a 16-bit word reduces nothing away. -/
theorem State.withFetchWord_toNat (s : State) (w : Word) : s.withFetchWord 16 w.toNat = s.placeMpWord w := by
  rw [State.withFetchWord, Nat.mod_eq_of_lt w.isLt, BitVec.ofNat_toNat, BitVec.setWidth_eq]

/-- Settles O49: every word decodes, and its instruction is what the next step runs. -/
theorem storedWordIsFetchedAtOnce : Obligations.StoredWordIsFetchedAtOnce := by
  intro s w
  obtain ⟨i, hi⟩ := exists_decodeMp w
  obtain ⟨j, hj⟩ := exists_decodeDp w
  exact ⟨⟨i, hi, step_placeMpWord s hi⟩, ⟨j, hj, step_placeDpWord s hj⟩, s.withFetchWord_toNat w⟩

end Sys2Proof.Machine
end

section
/-! SUPPORT. Fields and single bits of words (R9): what a mask keeps of them, and their values as numbers. -/

namespace Sys2Proof

theorem field_and_of_ones {m : Word} {lo n : Nat} (w : Word) (hm : field m lo n = BitVec.allOnes n) :
    field (w &&& m) lo n = field w lo n := by
  simp only [field] at hm ⊢
  rw [BitVec.extractLsb'_and, hm, BitVec.and_allOnes]

theorem field_and_of_zero {m : Word} {lo n : Nat} (w : Word) (hm : field m lo n = 0#n) :
    field (w &&& m) lo n = 0#n := by
  simp only [field] at hm ⊢
  rw [BitVec.extractLsb'_and, hm, BitVec.and_zero]

/-- Words that agree under a mask have each field that the mask keeps whole in common. -/
theorem field_of_agree {v w m : Word} (h : v &&& m = w &&& m) (lo n : Nat) (hm : field m lo n = BitVec.allOnes n) :
    field v lo n = field w lo n := by
  rw [← field_and_of_ones v hm, h, field_and_of_ones w hm]

theorem bit_eq_field (w : Word) (k : Nat) : bit w k = (field w k 1).getLsbD 0 := by
  simp [bit, field]

theorem flag_getLsbD (b : Bool) : (flag b).getLsbD 0 = b := by cases b <;> rfl

theorem toNat_flag (b : Bool) : (flag b).toNat = if b then 1 else 0 := by cases b <;> rfl

theorem toNat_field_one (w : Word) (k : Nat) : (field w k 1).toNat = if bit w k then 1 else 0 := by
  have hb : field w k 1 = flag (bit w k) := by
    apply BitVec.eq_of_getLsbD_eq
    intro j hj
    obtain rfl : j = 0 := by omega
    rw [← bit_eq_field, flag_getLsbD]
  rw [hb, toNat_flag]

theorem toNat_field (w : Word) (lo n : Nat) : (field w lo n).toNat = w.toNat / 2 ^ lo % 2 ^ n := by
  rw [field, BitVec.extractLsb'_toNat, Nat.shiftRight_eq_div_pow]

end Sys2Proof
end

section
/-! SUPPORT. The fields of each word format (R92 to R102). A word is known by the fields of its format. -/

namespace Sys2Proof.Machine

/-- The fields of an instruction's word as (lowest bit, width): its op nibble, its operands, and the bits between them
that its format fixes or ignores. Each field is examined whole or not at all. -/
def layout : Instr → List (Nat × Nat)
  | .nop | .dret | .dhlt => [(12, 4), (0, 12)]
  | .jmp _ | .dac _ | .xam _ | .isz _ | .add _ | .and _ | .lda _ | .jms _ | .ior _ => [(12, 4), (0, 12)]
  | .dnop _ | .dlxa _ | .dlya _ | .djmp _ | .djms _ | .dlxb _ | .dlyb _ => [(12, 4), (0, 12)]
  | .law .. | .hlt | .dpt | .drtn8 | .dhlt8 => [(12, 4), (11, 1), (0, 11)]
  | .skp .. => [(12, 4), (6, 6), (5, 1), (4, 1), (3, 1), (2, 1), (1, 1), (0, 1)]
  | .ral _ | .rar _ => [(12, 4), (8, 4), (0, 8)]
  | .iotKbd .. | .iotDpc .. | .iotLpn .. => [(12, 4), (6, 6), (3, 3), (2, 1), (1, 1), (0, 1)]
  | .iotTty | .iotCyc | .iotNone _ => [(12, 4), (6, 6), (0, 6)]
  | .opr .. => [(12, 4), (11, 1), (10, 1), (9, 1), (8, 1), (7, 1), (6, 1), (5, 1), (4, 1), (3, 1), (2, 1), (0, 2)]
  | .dintp _ => [(3, 13), (0, 3)]
  | .dsvec .. | .dlvec .. | .dsxy .. => [(12, 4), (11, 1), (6, 5), (5, 1), (0, 5)]
  | .dint7 _ => [(12, 4), (11, 1), (5, 6), (4, 1), (3, 1), (0, 3)]
  | .dnop7 => [(12, 4), (11, 1), (5, 6), (4, 1), (0, 4)]
  | .dint _ => [(12, 4), (3, 9), (0, 3)]
  | .dscl _ => [(12, 4), (2, 10), (0, 2)]

theorem layout_covers (i : Instr) : ∀ k < 16, ∃ p ∈ layout i, p.1 ≤ k ∧ k < p.1 + p.2 := by
  cases i <;> simp only [layout] <;> decide

theorem word_ext_fields (i : Instr) {v w : Word}
    (h : ∀ p ∈ layout i, (field v p.1 p.2).toNat = (field w p.1 p.2).toNat) : v = w := by
  refine BitVec.eq_of_getLsbD_eq fun k hk => ?_
  obtain ⟨p, hp, hlo, hhi⟩ := layout_covers i k hk
  have hbit := congrArg (fun f => f.getLsbD (k - p.1)) (BitVec.eq_of_toNat_eq (h p hp))
  simpa [field, Nat.add_sub_cancel' hlo, show k - p.1 < p.2 by omega] using hbit

/-- The op nibble of an encoded word is that of the instruction's row of the opcode table. -/
theorem op_encode (i : Instr) : (field (encode i) 12 4).toNat = (Laws.RowPattern.row i).2.toNat / 4096 := by
  cases i <;>
    simp (disch := omega) only [encode, Laws.RowPattern.row, field, BitVec.extractLsb'_append_eq_of_le,
      BitVec.extractLsb'_eq_self, BitVec.reduceExtractLsb', BitVec.reduceToNat, Nat.reduceDiv, Nat.reduceSub,
      Nat.sub_self]

end Sys2Proof.Machine
end

section
/-! PROOF. The decoders and the encoder (R90 to R113): every word decodes to a well-formed instruction, the encoder gives
back the bits it examines, and every word with these bits decodes to it. -/

namespace Sys2Proof.Machine

variable {p : Processor} {v w : Word} {i : Instr}

theorem wellFormed_iotNone_iff (dev : BitVec 6) : (Instr.iotNone dev).wellFormed = true ↔
    dev.toNat ≠ 1 ∧ dev.toNat ≠ 2 ∧ dev.toNat ≠ 4 ∧ dev.toNat ≠ 16 ∧ dev.toNat ≠ 32 := by
  simp [Instr.wellFormed, knownDevices, ← BitVec.toNat_inj]

/-- Under op nibble 0, the nine bits that well-formedness tests decide whether the whole word is in 0x0E00..0x0E07. -/
theorem wellFormed_dnop_iff (hop : (field w 12 4).toNat = 0) :
    (Instr.dnop (field w 0 12)).wellFormed = true ↔ field w 3 13 ≠ 0x1C0#13 := by
  have hw := w.isLt
  simp only [toNat_field, Instr.wellFormed, Bool.not_eq_true', beq_eq_false_iff_ne, ne_eq, ← BitVec.toNat_inj,
    BitVec.extractLsb'_toNat, Nat.shiftRight_eq_div_pow, BitVec.reduceToNat] at hop ⊢
  omega

theorem decodeIot_of_wellFormed (hi : (Instr.iotNone (field w 6 6)).wellFormed = true) :
    decodeIot w = .iotNone (field w 6 6) := by
  obtain ⟨h1, h2, h4, h16, h32⟩ := (wellFormed_iotNone_iff _).mp hi
  unfold decodeIot
  split
  case h_6 => rfl
  all_goals contradiction

theorem wellFormed_of_decode (h : decode p w = some i) : i.wellFormed = true := by
  cases p with
  | mp =>
    simp only [decode, decodeMp] at h
    split at h
    case h_15 =>
      cases h
      unfold decodeIot
      split
      case h_6 h1 h2 h4 h16 h32 => exact (wellFormed_iotNone_iff _).mpr ⟨h1, h2, h4, h16, h32⟩
      all_goals rfl
    case h_16 => cases h; unfold decodeOpr; split <;> rfl
    all_goals cases h <;> rfl
  | dp =>
    simp only [decode, decodeDp] at h
    split at h
    case h_1 hop =>
      cases h
      unfold decodeDpZero
      split
      · rfl
      · next hne => exact (wellFormed_dnop_iff hop).mpr hne
    case h_8 => cases h; unfold decodeDpSeven; split <;> [rfl; split <;> rfl]
    case h_9 => cases h; split <;> rfl
    all_goals cases h <;> rfl

theorem unit_of_decode (h : decode p w = some i) : i.unit = p := by
  cases p with
  | mp => exact unit_of_decodeMp h
  | dp => exact unit_of_decodeDp h

theorem exists_exec_next (i : Instr) (s : State) : ∃ t, exec i s = .next t := by
  cases i <;> exact ⟨_, rfl⟩

/-- The decoder takes the instruction's row for `v`, and the fields that it then reads of `v` are those of the encoded
word, each of them the operand put there. -/
theorem decode_of_agree (hi : i.wellFormed = true) (h : v &&& examined i = encode i &&& examined i) :
    decode i.unit v = some i := by
  have hf := field_of_agree h
  have hop : (field v 12 4).toNat = (Laws.RowPattern.row i).2.toNat / 4096 := by
    rw [hf 12 4 (by cases i <;> simp only [examined] <;> decide), op_encode]
  cases i
  -- the op nibble selects the row, which settles the rows without operands
  all_goals
    simp only [examined] at hf
    simp only [Laws.RowPattern.row, BitVec.reduceToNat, Nat.reduceDiv] at hop
    simp only [Instr.unit, decode, decodeMp, decodeDp, hop]
  case iotNone dev =>
    obtain rfl : field v 6 6 = dev := by
      rw [hf 6 6 (by decide)]
      simp (disch := omega) only [encode, field, BitVec.extractLsb'_append_eq_of_le,
        BitVec.extractLsb'_append_eq_of_add_le, BitVec.extractLsb'_eq_self, Nat.sub_self]
    rw [decodeIot_of_wellFormed hi]
  case dnop addr =>
    obtain rfl : field v 0 12 = addr := by
      rw [hf 0 12 (by decide)]
      simp (disch := omega) only [encode, field, BitVec.extractLsb'_append_eq_of_add_le, BitVec.extractLsb'_eq_self]
    rw [decodeDpZero, if_neg ((wellFormed_dnop_iff hop).mp hi)]
  -- elsewhere, first from the fields of `v` to those of the encoded word, then to its pieces
  all_goals
    simp (disch := decide) only [decodeIot, decodeOpr, decodeDpSeven, decodeDpZero, bit_eq_field, hf, encode]
    simp (disch := omega) only [field, BitVec.extractLsb'_append_eq_of_le, BitVec.extractLsb'_append_eq_of_add_le,
      BitVec.extractLsb'_eq_self, BitVec.reduceExtractLsb', BitVec.reduceToNat, BitVec.reduceGetLsb, Nat.reduceSub,
      Nat.sub_self, flag_getLsbD, if_true, if_false, Bool.false_eq_true]

/-- Each field of the encoded word is that field of `w` where the instruction examines it, and 0 elsewhere. -/
theorem encode_of_decode (h : decode p w = some i) : encode i = w &&& examined i := by
  apply word_ext_fields i
  cases p
  case' mp =>
    simp only [decode, decodeMp] at h
    split at h
    case' h_15 => unfold decodeIot at h; split at h
    case' h_16 => unfold decodeOpr at h; split at h
  case' dp =>
    simp only [decode, decodeDp] at h
    split at h
    case' h_1 => unfold decodeDpZero at h; split at h
    case' h_8 => unfold decodeDpSeven at h; split at h <;> [skip; split at h]
    case' h_9 => split at h
  all_goals cases h
  -- first the fields of `w` that the row fixes or that are masked out, then the pieces of the encoded word
  all_goals
    simp (disch := decide) only [layout, List.forall_mem_cons, List.not_mem_nil, IsEmpty.forall_iff, implies_true, encode,
      examined, field_and_of_ones, field_and_of_zero, toNat_field_one w, *]
    simp (disch := omega) only [field, BitVec.extractLsb'_append_eq_of_le, BitVec.extractLsb'_append_eq_of_add_le,
      BitVec.extractLsb'_eq_self, BitVec.reduceExtractLsb', BitVec.reduceToNat, Nat.reduceSub, Nat.sub_self, toNat_flag,
      if_true, if_false, Bool.false_eq_true, and_self]

/-- Settles O7: the encoded word agrees with itself. -/
theorem decodeOfEncodeIsTheInstruction : Obligations.DecodeOfEncodeIsTheInstruction :=
  fun _ hi => decode_of_agree hi rfl

/-- Settles O6: what every decoded instruction is, and that each instruction has a next state. -/
theorem everyWordDecodes : Obligations.EveryWordDecodes := by
  intro p w
  obtain ⟨i, hd⟩ : ∃ i, decode p w = some i := by
    cases p with
    | mp => exact exists_decodeMp w
    | dp => exact exists_decodeDp w
  exact ⟨i, hd, wellFormed_of_decode hd, unit_of_decode hd, exists_exec_next i⟩

/-- Settles O8: a word that agrees with the decoded one agrees with the encoder's. -/
theorem ignoredBitsDoNotReachTheInstruction : Obligations.IgnoredBitsDoNotReachTheInstruction := by
  intro p w i hd
  have he := encode_of_decode hd
  refine ⟨he, fun v hv => ?_⟩
  have hagree : v &&& examined i = encode i &&& examined i := by rw [hv, he, BitVec.and_assoc, BitVec.and_self]
  rw [← unit_of_decode hd]
  exact decode_of_agree (wellFormed_of_decode hd) hagree

/-- Settles O9, by evaluating the decoders on the fourteen words. -/
theorem sampleWordsDecode : Obligations.SampleWordsDecode := by
  unfold Obligations.SampleWordsDecode
  decide

end Sys2Proof.Machine
end

section
/-! PROOF. The operations that write Link, and with them OPR, in plain numbers (R166, R197, R240, R241, R246 to R254). -/

namespace Sys2Proof.Machine

/-- Link:AC as one 17-bit number, the form in which `oprExact` turns it (R197). -/
def ringValue (r : Bool × Word) : Nat := r.1.toNat * 65536 + r.2.toNat

theorem ringValue_addCarry (a b : Word) : ringValue (addCarry a b) = a.toNat + b.toNat := by
  have ha := a.isLt
  have hb := b.isLt
  simp only [ringValue, addCarry, BitVec.getLsbD, Nat.toNat_testBit, BitVec.toNat_setWidth, BitVec.toNat_add]
  omega

theorem ringValue_rotl17 (r : Bool × Word) : ringValue (rotl17 r) = 2 * ringValue r % 131072 + ringValue r / 65536 := by
  obtain ⟨l, a⟩ := r
  have ha := a.isLt
  have hdisj : (a <<< 1) &&& linkWord l = 0 := by
    apply Laws.RowPattern.word_ext
    cases l <;> simp [linkWord, Fin.forall_fin_succ]
  have hl : (linkWord l).toNat = l.toNat := by cases l <;> rfl
  simp only [ringValue, rotl17, BitVec.getLsbD, Nat.toNat_testBit, ← BitVec.add_eq_or_of_and_eq_zero _ _ hdisj,
    BitVec.toNat_add, hl, BitVec.toNat_shiftLeft, Nat.shiftLeft_eq]
  have hle := l.toNat_le
  have hlink : (l.toNat * 65536 + a.toNat) / 65536 = l.toNat := by omega
  have hcarry : (2 * (l.toNat * 65536 + a.toNat)) % 131072 = 2 * a.toNat := by omega
  omega

theorem ringValue_rotr17 (r : Bool × Word) : ringValue (rotr17 r) = ringValue r / 2 + ringValue r % 2 * 65536 := by
  obtain ⟨l, a⟩ := r
  have ha := a.isLt
  have hdisj : (a >>> 1) &&& linkWord l <<< 15 = 0 := by
    apply Laws.RowPattern.word_ext
    cases l <;> simp [linkWord, Fin.forall_fin_succ]
  have hl : (linkWord l <<< 15).toNat = l.toNat * 32768 := by cases l <;> rfl
  simp only [ringValue, rotr17, BitVec.getLsbD, Nat.toNat_testBit, ← BitVec.add_eq_or_of_and_eq_zero _ _ hdisj,
    BitVec.toNat_add, hl, BitVec.toNat_ushiftRight, Nat.shiftRight_eq_div_pow]
  have hle := l.toNat_le
  omega

theorem ringValue_mod (r : Bool × Word) : ringValue r % 65536 = r.2.toNat := by
  have hac := r.2.isLt
  simp only [ringValue]
  omega

theorem ringValue_div (r : Bool × Word) : ringValue r / 65536 = r.1.toNat := by
  have hac := r.2.isLt
  simp only [ringValue]
  omega

/-- What `oprExact` makes of a state's AC, Link and DP.AC. -/
def State.oprAnswer (s : State) (cla cll cma cml iac stl xda rl1 rr1 : Bool) : Nat × Nat × Nat :=
  oprExact cla cll cma cml iac stl xda rl1 rr1 s.ac.toNat s.link.toNat s.dpAc.toNat

section
/-! The first micro-op of a selection, in the order of R241, can be done on the state and struck from the selection. -/

variable (s : State) (cla cll cma cml iac stl xda rl1 rr1 : Bool)

theorem oprAnswer_cla : s.oprAnswer cla cll cma cml iac stl xda rl1 rr1 =
    (s.micro cla State.cla).oprAnswer false cll cma cml iac stl xda rl1 rr1 := by
  cases cla <;> rfl

theorem oprAnswer_cll : s.oprAnswer false cll cma cml iac stl xda rl1 rr1 =
    (s.micro cll State.cll).oprAnswer false false cma cml iac stl xda rl1 rr1 := by
  cases cll <;> rfl

theorem oprAnswer_cma : s.oprAnswer false false cma cml iac stl xda rl1 rr1 =
    (s.micro cma State.cma).oprAnswer false false false cml iac stl xda rl1 rr1 := by
  cases cma
  · rfl
  · simp [State.oprAnswer, oprExact, State.micro, State.cma]

theorem oprAnswer_cml : s.oprAnswer false false false cml iac stl xda rl1 rr1 =
    (s.micro cml State.cml).oprAnswer false false false false iac stl xda rl1 rr1 := by
  cases cml
  · rfl
  · have hnot : (!s.link).toNat = 1 - s.link.toNat := by cases s.link <;> rfl
    simp [State.oprAnswer, oprExact, State.micro, State.cml, hnot]

theorem oprAnswer_iac : s.oprAnswer false false false false iac stl xda rl1 rr1 =
    (s.micro iac State.iac).oprAnswer false false false false false stl xda rl1 rr1 := by
  cases iac
  · rfl
  · have hsum : ringValue (addCarry s.ac 1) = s.ac.toNat + 1 := ringValue_addCarry s.ac 1
    simp [State.oprAnswer, oprExact, State.micro, State.iac, ← hsum, ringValue_mod, ringValue_div]

theorem oprAnswer_stl : s.oprAnswer false false false false false stl xda rl1 rr1 =
    (s.micro stl State.stl).oprAnswer false false false false false false xda rl1 rr1 := by
  cases stl <;> rfl

theorem oprAnswer_xda : s.oprAnswer false false false false false false xda rl1 rr1 =
    (s.micro xda State.xda).oprAnswer false false false false false false false rl1 rr1 := by
  cases xda <;> rfl

theorem oprAnswer_rl1 : s.oprAnswer false false false false false false false rl1 rr1 =
    (s.micro rl1 State.rl1).oprAnswer false false false false false false false false rr1 := by
  cases rl1
  · rfl
  · have hring := ringValue_rotl17 (s.link, s.ac)
    simp only [ringValue] at hring
    simp [State.oprAnswer, oprExact, State.micro, State.rl1, hring]

theorem oprAnswer_rr1 : s.oprAnswer false false false false false false false false rr1 =
    (s.micro rr1 State.rr1).oprAnswer false false false false false false false false false := by
  cases rr1
  · rfl
  · have hring := ringValue_rotr17 (s.link, s.ac)
    simp only [ringValue] at hring
    simp [State.oprAnswer, oprExact, State.micro, State.rr1, hring]

theorem oprAnswer_none : s.oprAnswer false false false false false false false false false =
    (s.ac.toNat, s.link.toNat, s.dpAc.toNat) := by
  have hmod := ringValue_mod (s.link, s.ac)
  have hdiv := ringValue_div (s.link, s.ac)
  simp only [ringValue] at hmod hdiv
  simp [State.oprAnswer, oprExact, hmod, hdiv]

end

/-- The selected micro-ops leave every field but AC, Link and DP.AC. -/
theorem execOpr_frame {s t : State} {cla cll cma cml iac stl xda rl1 rr1 : Bool}
    (h : execOpr cla cll cma cml iac stl xda rl1 rr1 s = .next t) :
    t = { s with ac := t.ac, link := t.link, dpAc := t.dpAc } := by
  obtain ⟨g, hg⟩ := execOpr_actsOnOprPart cla cll cma cml iac stl xda rl1 rr1
  rw [hg] at h
  cases h
  rfl

/-- Settles O29: the selected micro-ops are done one after the other, and the plain-number answer stays the same. -/
theorem oprAppliesMicroOpsInOrder : Obligations.OprAppliesMicroOpsInOrder := by
  constructor
  · intro w hop h11
    simp [decodeMp, decodeOpr, hop, h11]
  · intro s cla cll cma cml iac stl xda rl1 rr1
    refine ⟨_, rfl, execOpr_frame rfl, ?_⟩
    change _ = s.oprAnswer cla cll cma cml iac stl xda rl1 rr1
    rw [oprAnswer_cla, oprAnswer_cll, oprAnswer_cma, oprAnswer_cml, oprAnswer_iac, oprAnswer_stl, oprAnswer_xda,
      oprAnswer_rl1, oprAnswer_rr1, oprAnswer_none]

end Sys2Proof.Machine
end

section
/-! PROOF. The assembler's printed examples (R126, R131). -/

namespace Sys2Proof.Machine

theorem assemble_jmp : assemble "JMP 0x900".toList = ([(0x050, 0x2900)], 1) := by decide +kernel

theorem assemble_source_example : assemble "START: LAW 5\nADD START\nHLT".toList =
    ([(0x050, 0x1005), (0x051, 0x6050), (0x052, 0xF800)], 3) := by decide +kernel

/-- With bit 11 set the effective address is the low twelve bits of the pointer cell (R143). -/
theorem State.ea_of_indirect (s : State) {ea0 : Addr} (h : ea0.getLsbD 11 = true) :
    (s.ea ea0).toNat = (s.readMem ea0).toNat % 4096 := by
  rw [State.ea, if_pos h, BitVec.toNat_setWidth]

/-- Pokes are performed one after the other, and none of them stops. -/
theorem performAll_pokes (writes : List (Nat × Nat)) (s : State) :
    performAll (writes.map fun w => .poke w.1 w.2) s = .next (writes.foldl (fun t w => t.poke w.1 w.2) s) := by
  induction writes generalizing s with
  | nil => rfl
  | cons w rest ih => exact ih (s.poke w.1 w.2)

/-- Settles O60: the two texts assembled, and the three pokes read back. -/
theorem assembledExampleIsStoredByPokes : Obligations.AssembledExampleIsStoredByPokes := by
  refine ⟨assemble_jmp, fun s => ⟨by decide, s.ea_of_indirect (by decide)⟩, by rw [assemble_source_example], ?_⟩
  intro s
  refine ⟨_, performAll_pokes _ s, ?_⟩
  rw [assemble_source_example]
  refine ⟨rfl, ?_⟩
  simp +contextual [State.poke, State.readMem_writeMem]

end Sys2Proof.Machine
end

section
/-! PROOF. The effective address (R143): bit 11 of `ea0` tells the two halves of the address space apart. -/

namespace Sys2Proof.Machine

theorem getLsbD_eleven_eq_decide (a : Addr) : a.getLsbD 11 = decide (0x800 ≤ a.toNat) := by
  rw [← BitVec.msb_eq_decide a, BitVec.msb_eq_getLsbD_last]

/-- With bit 11 clear the effective address is the operand field itself (R143). -/
theorem State.ea_of_direct (s : State) {ea0 : Addr} (h : ea0.getLsbD 11 = false) : s.ea ea0 = ea0 := by
  rw [State.ea, h, if_neg Bool.false_ne_true]

/-- Settles O12: the flag bit of `ea0` is set exactly from 0x800 on. -/
theorem effectiveAddressKeepsTheIndirectOverlap : Obligations.EffectiveAddressKeepsTheIndirectOverlap := by
  intro s ea0
  constructor
  · intro hlow
    exact s.ea_of_direct ((getLsbD_eleven_eq_decide ea0).trans (decide_eq_false (Nat.not_le.mpr hlow)))
  · intro hhigh
    exact s.ea_of_indirect ((getLsbD_eleven_eq_decide ea0).trans (decide_eq_true hhigh))

end Sys2Proof.Machine
end

section
/-! PROOF. The cycle of each processor (R140 to R142, R270 to R272): the gates, the fetch, and the count CYC (R148). -/

namespace Sys2Proof.Machine

variable {s t : State} {i : Instr}

theorem mpStep_of_halt (h : s.halt = true) : mpStep s = .next s := by
  simp [mpStep, h]

theorem dpStep_of_closed (h : s.dpEnabled = false ∨ s.dpHalt = true) : dpStep s = .next s := by
  rcases h with h | h <;> simp [dpStep, h]

/-- Settles O46: the gates of both steps; an ended state has both of them closed. -/
theorem stoppedProcessorsDoNothing : Obligations.StoppedProcessorsDoNothing := by
  refine ⟨fun s => mpStep_of_halt, fun s => dpStep_of_closed, ?_⟩
  rintro s ⟨hhalt, hdp⟩
  exact ⟨mpStep_of_halt hhalt, dpStep_of_closed hdp.symm⟩

/-- Settles O45: the pending call is performed, and it is the processor's step on the state without that call. -/
theorem stepRunsTheDecodedInstruction : Obligations.StepRunsTheDecodedInstruction := by
  refine ⟨fun s i rest hcall hhalt hd => ?_, fun s i rest hcall hen hhalt hd => ?_, ?_⟩
  · exact (step_of_pending hcall).trans (mpStep_of_decode { s with calls := rest } i hhalt hd)
  · exact (step_of_pending hcall).trans (dpStep_of_decode { s with calls := rest } i hen hhalt hd)
  · rintro s rest (⟨hcall, hhalt⟩ | ⟨hcall, hclosed⟩)
    · exact (step_of_pending hcall).trans (mpStep_of_halt (s := { s with calls := rest }) hhalt)
    · exact (step_of_pending hcall).trans (dpStep_of_closed (s := { s with calls := rest }) hclosed)

/-- No instruction writes CYC: the fetch alone counts (R142). -/
theorem exec_cyc (h : exec i s = .next t) : t.cyc = s.cyc := by
  obtain ⟨-, -, -, hcyc, -⟩ := eachPieceOfStateHasItsNamedWriters i s t h
  exact hcyc

/-- Settles O48: an MP step counts in its fetch, which it has exactly when not halted; a DP step leaves the MP's registers. -/
theorem cycCountsExecutedMpInstructions : Obligations.CycCountsExecutedMpInstructions := by
  constructor
  · intro s t h
    rcases mpStep_cases h with ⟨hhalt, rfl⟩ | ⟨i, hhalt, -, hx⟩
    · simp [hhalt]
    · simp [hhalt, exec_cyc hx]
  · intro s t h
    obtain ⟨⟨-, -, hir, -, -, -, hcyc⟩, -, -⟩ := dpStep_keeps_mp_and_host h
    exact ⟨hcyc.symm, hir.symm⟩

end Sys2Proof.Machine
end

section
/-! PROOF. The program counters after a step (R147, R283): only the named writers of a counter move it beyond the fetch. -/

namespace Sys2Proof.Machine

variable {s t : State} {i : Instr}

theorem exec_pc (h : exec i s = .next t) (hi : writesPc i = false) : t.pc = s.pc := by
  obtain ⟨-, -, -, -, -, -, hpc, -⟩ := eachPieceOfStateHasItsNamedWriters i s t h
  exact hpc hi

theorem exec_dpPc (h : exec i s = .next t) (hi : writesDpPc i = false) : t.dpPc = s.dpPc := by
  obtain ⟨-, -, -, -, -, -, -, -, hpc, -⟩ := eachPieceOfStateHasItsNamedWriters i s t h
  exact hpc hi

/-- A skip acts over the fetch advance, so it leaves PC two words on, and one without it (R146). -/
theorem State.ite_mpFetch_pc (s : State) (c : Bool) :
    (if c then s.mpFetch.pc + 1 else s.mpFetch.pc) = if c then s.pc + 2 else s.pc + 1 := by
  rw [State.mpFetch_pc, BitVec.add_assoc]
  rfl

/-- The skip test of ISZ (R165) in plain numbers. -/
theorem not_getLsbD_fifteen_eq_decide (w : Word) : (!w.getLsbD 15) = decide (w.toNat < 32768) := by
  have hmsb : w.getLsbD 15 = decide (32768 ≤ w.toNat) := by
    rw [← BitVec.msb_eq_decide w, BitVec.msb_eq_getLsbD_last]
  rw [hmsb, ← decide_not, decide_eq_decide, Nat.not_le]

theorem State.ret_dpPc (s : State) :
    s.ret.dpPc = if h : 0 < s.sp.val then s.stk[s.sp.val - 1]'(by omega) else s.dpPc := by
  unfold State.ret
  split <;> rfl

/-- PC after an instruction run on the state after the MP fetch, against the table of R147. -/
theorem exec_mpFetch_pc (h : exec i s.mpFetch = .next t) : t.pc = mpNextPc i s := by
  cases i with
  | jmp | jms => cases h; rfl
  | isz ea0 =>
    have hsum : (s.mpFetch.operand ea0 + 1).toNat = ((s.operand ea0).toNat + 1) % 65536 := BitVec.toNat_add _ _
    cases h
    rw [State.skipIf_pc, not_getLsbD_fifteen_eq_decide, hsum]
    exact s.ite_mpFetch_pc _
  | skp => cases h; rw [State.skipIf_pc]; exact s.ite_mpFetch_pc _
  | iotKbd => simp only [exec, execIotKbd_eq] at h; cases h; exact s.ite_mpFetch_pc _
  | iotLpn => simp only [exec, execIotLpn_eq] at h; cases h; exact s.ite_mpFetch_pc _
  | _ => exact exec_pc h rfl

/-- DP.PC after an instruction run on the state after the DP fetch, against R283. -/
theorem exec_dpFetch_dpPc (hi : i.unit = .dp) (h : exec i s.dpFetch = .next t) : t.dpPc = dpNextPc i s := by
  cases i with
  | djmp | djms => cases h; rfl
  | dret | drtn8 => cases h; exact s.dpFetch.ret_dpPc
  | iotDpc => cases hi
  | _ => exact exec_dpPc h rfl

/-- Settles O47: the step runs the decoded instruction after the fetch, and the two tables hold of every instruction. -/
theorem programCounterTables : Obligations.ProgramCounterTables := by
  constructor
  · intro s i hhalt hd
    obtain ⟨t, ht⟩ := exists_exec_next i s.mpFetch
    exact ⟨t, (mpStep_of_decode s i hhalt hd).trans ht, exec_mpFetch_pc ht⟩
  · intro s i hen hhalt hd
    obtain ⟨t, ht⟩ := exists_exec_next i s.dpFetch
    exact ⟨t, (dpStep_of_decode s i hen hhalt hd).trans ht, exec_dpFetch_dpPc (unit_of_decodeDp hd) ht⟩

end Sys2Proof.Machine
end

section
/-! PROOF. The memory-reference and literal instructions of the MP, NOP, and the IOT without a device (R160 to R170,
R231). The op nibble alone selects all but the last (R92); those that store write one word and no other. -/

namespace Sys2Proof.Machine

variable {s t : State} {a : Addr} {v : Word}

/-- A state whose Memory is that of `s` with one word stored reads that word back, and every other word as `s` does
(R63). -/
theorem State.readMem_of_mem_eq_writeWord (hmem : t.mem = s.mem.writeWord a v) :
    t.readMem a = v ∧ ∀ b, b ≠ a → t.readMem b = s.readMem b := by
  simp only [State.readMem, hmem]
  exact ⟨s.mem.readWord_writeWord_same a v, fun b => s.mem.readWord_writeWord_other a b v⟩

/-- LAW's literal in plain numbers (R161). -/
theorem toNat_literal (neg : Bool) (lit : BitVec 11) :
    (literal neg lit).toNat = if neg then (0x10000 - lit.toNat) % 0x10000 else lit.toNat := by
  have hlit : (lit.setWidth 16).toNat = lit.toNat := BitVec.toNat_setWidth_of_le (by decide)
  cases neg with
  | false => exact hlit
  | true => exact (BitVec.toNat_neg _).trans (by rw [hlit]; rfl)

/-- The literal lies in 0..0x7FF, and so does its negation when it is 0; every other negation is 0xF801 or more (R161). -/
theorem toNat_literal_range (neg : Bool) (lit : BitVec 11) :
    (literal neg lit).toNat ≤ 0x7FF ∨ 0xF801 ≤ (literal neg lit).toNat := by
  have hlit := lit.isLt
  rw [toNat_literal]
  split <;> omega

/-- The incremented word is stored, and PC skips when it is below 0x8000 (R165). -/
theorem execIsz_eq (ea0 : Addr) (s : State) :
    execIsz ea0 s = .next { s with
      mem := s.mem.writeWord (s.ea ea0) (s.operand ea0 + 1)
      pc := if (s.operand ea0 + 1).toNat < 0x8000 then s.pc + 1 else s.pc } := by
  simp only [execIsz, State.skipIf_eq, not_getLsbD_fifteen_eq_decide, decide_eq_true_eq, State.writeMem]

/-- Settles O11: LAW assigns its literal to AC. -/
theorem lawLoadsLiteralOrItsNegation : Obligations.LawLoadsLiteralOrItsNegation :=
  ⟨fun w hop => by simp [decodeMp, hop],
    fun _ neg lit => ⟨_, rfl, rfl, toNat_literal neg lit, toNat_literal_range neg lit⟩⟩

/-- Settles O16: what ISZ tests for the skip is the word that is read back. -/
theorem iszIncrementsAndSkipsOnClearBit15 : Obligations.IszIncrementsAndSkipsOnClearBit15 := by
  refine ⟨fun w hop => by simp [decodeMp, hop], fun s ea0 => ⟨_, execIsz_eq ea0 s, rfl, ?_⟩⟩
  obtain ⟨hat, hother⟩ := State.readMem_of_mem_eq_writeWord (s.writeMem_mem (s.ea ea0) (s.operand ea0 + 1))
  exact ⟨(congrArg BitVec.toNat hat).trans (BitVec.toNat_add _ _), hother,
    congrArg (fun r : Word => if r.toNat < 0x8000 then s.pc + 1 else s.pc) hat.symm⟩

/-- Settles O17: Link:AC after ADD is the carry and the low word of the sum. -/
theorem addGivesTheExactSumInLinkAndAc : Obligations.AddGivesTheExactSumInLinkAndAc :=
  ⟨fun w hop => by simp [decodeMp, hop],
    fun s ea0 => ⟨_, rfl, rfl, ringValue_addCarry s.ac (s.operand ea0)⟩⟩

/-- Settles O19: a 12-bit return address stored in a word is the same number. -/
theorem jmsStoresReturnAddressAndEnters : Obligations.JmsStoresReturnAddressAndEnters := by
  refine ⟨fun w hop => by simp [decodeMp, hop], fun s ea0 => ⟨_, rfl, rfl, BitVec.toNat_add _ _, ?_⟩⟩
  obtain ⟨hat, hother⟩ := State.readMem_of_mem_eq_writeWord (s.writeMem_mem (s.ea ea0) (s.pc.setWidth 16))
  exact ⟨(congrArg BitVec.toNat hat).trans (BitVec.toNat_setWidth_of_le (by decide)), hother⟩

/-- Settles O10: an unhalted step over either is the fetch alone. -/
theorem nopAndUnknownDevicesHaveNoEffect : Obligations.NopAndUnknownDevicesHaveNoEffect := by
  have hnop : ∀ w, field w 12 4 = 0x0#4 → decodeMp w = some .nop := fun w hop => by simp [decodeMp, hop]
  refine ⟨hnop, fun _ => rfl, fun s hhalt hop => mpStep_of_decode s .nop hhalt (hnop _ hop), ?_, fun _ _ => rfl,
    fun s dev hhalt hd => mpStep_of_decode s (.iotNone dev) hhalt hd⟩
  intro w hop h01 h02 h04 h10 h20
  have hdev : (Instr.iotNone (field w 6 6)).wellFormed = true := (wellFormed_iotNone_iff _).mpr
    ⟨BitVec.toNat_ne.mp h01, BitVec.toNat_ne.mp h02, BitVec.toNat_ne.mp h04, BitVec.toNat_ne.mp h10,
      BitVec.toNat_ne.mp h20⟩
  simp [decodeMp, hop, decodeIot_of_wellFormed hdev]

/-- Settles O13: each jump is one assignment. -/
theorem jumpsSetTheirProgramCounter : Obligations.JumpsSetTheirProgramCounter :=
  ⟨fun w hop => by simp [decodeMp, hop], fun w hop => by simp [decodeDp, hop], fun _ _ _ => ⟨rfl, rfl⟩⟩

/-- Settles O14: DAC is one store. -/
theorem dacStoresAcAtEa : Obligations.DacStoresAcAtEa :=
  ⟨fun w hop => by simp [decodeMp, hop], fun _ _ => ⟨_, rfl, rfl, State.readMem_of_mem_eq_writeWord rfl⟩⟩

/-- Settles O15: XAM is one store of AC and one load of the word from before it. -/
theorem xamExchangesAcAndMemory : Obligations.XamExchangesAcAndMemory :=
  ⟨fun w hop => by simp [decodeMp, hop], fun _ _ => ⟨_, rfl, rfl, rfl, State.readMem_of_mem_eq_writeWord rfl⟩⟩

/-- Settles O18: each of the three is one assignment to AC. -/
theorem andLdaIorWriteAcAlone : Obligations.AndLdaIorWriteAcAlone :=
  ⟨fun w hop => by simp [decodeMp, hop], fun w hop => by simp [decodeMp, hop], fun w hop => by simp [decodeMp, hop],
    fun _ _ => ⟨rfl, rfl, rfl⟩⟩

end Sys2Proof.Machine
end

section
/-! PROOF. SKP (R95, R190): the skip test, read as the OR of the selected conditions against the invert bit. -/

namespace Sys2Proof.Machine

/-- Some selected condition of SKP holds (R95). -/
def State.skpCondition (s : State) (dph key zlk pac zac : Bool) : Prop :=
  (zac = true ∧ s.ac = 0) ∨ (pac = true ∧ s.ac.toNat < 0x8000) ∨ (zlk = true ∧ s.link = false) ∨
    (key = true ∧ s.keyboard ≠ 0) ∨ (dph = true ∧ s.dpHalt = true)

/-- The skip test of SKP on the registers of `s` (R190). -/
def State.skpTest (s : State) (inv dph key zlk pac zac : Bool) : Bool :=
  skipTest inv dph key zlk pac zac s.ac s.keyboard s.link s.dpHalt

theorem execSkp_eq (inv dph key zlk pac zac : Bool) (s : State) :
    execSkp inv dph key zlk pac zac s =
      .next { s with pc := if s.skpTest inv dph key zlk pac zac then s.pc + 1 else s.pc } :=
  congrArg _ (s.skipIf_eq _)

theorem State.skpTest_without_invert (s : State) (dph key zlk pac zac : Bool) :
    s.skpTest false dph key zlk pac zac = true ↔ s.skpCondition dph key zlk pac zac := by
  simp only [State.skpTest, skipTest, State.skpCondition, not_getLsbD_fifteen_eq_decide]
  simp [or_assoc]

theorem State.skpTest_with_invert (s : State) (dph key zlk pac zac : Bool) :
    s.skpTest true dph key zlk pac zac = !s.skpTest false dph key zlk pac zac := rfl

/-- The test is true exactly if the OR of the conditions differs from the invert bit, and false exactly if the two are
the same (R190). -/
theorem State.skpTest_eq_iff (s : State) (inv dph key zlk pac zac b : Bool) :
    s.skpTest inv dph key zlk pac zac = b ↔ (s.skpCondition dph key zlk pac zac ↔ inv = !b) := by
  rw [← skpTest_without_invert]
  cases inv with
  | false => cases b <;> simp
  | true => rw [skpTest_with_invert]; cases b <;> simp

/-- Settles O20: the skip test is true or false, and either way says how the conditions stand to the invert bit. -/
theorem skpSkipsOnSelectedConditions : Obligations.SkpSkipsOnSelectedConditions := by
  refine ⟨fun w hop => by simp [decodeMp, hop], fun s inv dph key zlk pac zac => ⟨_, execSkp_eq .., rfl, ?_⟩⟩
  cases htest : s.skpTest inv dph key zlk pac zac with
  | true => exact .inl ⟨rfl, (s.skpTest_eq_iff ..).mp htest⟩
  | false => exact .inr ⟨rfl, (s.skpTest_eq_iff ..).mp htest⟩

end Sys2Proof.Machine
end

section
/-! PROOF. RAL and RAR (R195 to R198): one place turns the 17-bit ring Link:AC by one, so `k` places are the library's
rotation by `k`, and the laws of the rotates are arithmetic modulo 17. -/

namespace Sys2Proof.Machine

theorem rotateLeft_rotateLeft {w : Nat} (x : BitVec w) (a b : Nat) :
    (x.rotateLeft a).rotateLeft b = x.rotateLeft (a + b) := by
  refine BitVec.eq_of_getMsbD_eq fun i hi => ?_
  have hlt : (b + i) % w < w := Nat.mod_lt _ (by omega)
  simp [BitVec.getMsbD_rotateLeft, hi, hlt, Nat.add_assoc]

theorem rotateRight_eq_rotateLeft {w : Nat} (x : BitVec w) (k : Nat) :
    x.rotateRight k = x.rotateLeft (w - k % w) := by
  refine BitVec.eq_of_getMsbD_eq fun i hi => ?_
  have hk : k % w < w := Nat.mod_lt _ (by omega)
  rw [BitVec.getMsbD_rotateRight, BitVec.getMsbD_rotateLeft]
  split
  · rw [Nat.sub_add_comm hk.le]
  · rw [show w - k % w + i = (i - k % w) + w by omega, Nat.add_mod_right, Nat.mod_eq_of_lt (a := i - k % w) (by omega)]

theorem rotateLeft_congr {w a b : Nat} (x : BitVec w) (h : a % w = b % w) : x.rotateLeft a = x.rotateLeft b := by
  rw [← BitVec.rotateLeft_mod_eq_rotateLeft, h, BitVec.rotateLeft_mod_eq_rotateLeft]

theorem rotateLeft_eq_self {w k : Nat} (x : BitVec w) (h : k % w = 0) : x.rotateLeft k = x := by
  simp [BitVec.rotateLeft_def, h, BitVec.ushiftRight_eq_zero (le_refl w)]

/-- Link:AC as one 17-bit value, Link its bit 16 (R197). -/
def ringBits (r : Bool × Word) : BitVec 17 := BitVec.ofBool r.1 ++ r.2

/-- Link and AC of a 17-bit value. -/
def ofRingBits (x : BitVec 17) : Bool × Word := (x.getLsbD 16, x.setWidth 16)

theorem getLsbD_ringBits (r : Bool × Word) (i : Nat) :
    (ringBits r).getLsbD i = if i < 16 then r.2.getLsbD i else decide (i = 16) && r.1 := by
  rw [ringBits, BitVec.getLsbD_append]
  split
  · rfl
  · next h =>
    rw [BitVec.getLsbD_ofBool, show decide (i = 16) = decide (i - 16 = 0) by rw [decide_eq_decide]; omega]

theorem ofRingBits_ringBits (r : Bool × Word) : ofRingBits (ringBits r) = r := by
  refine Prod.ext (getLsbD_ringBits r 16) (BitVec.eq_of_getLsbD_eq fun i hi => ?_)
  simp [ofRingBits, getLsbD_ringBits, hi]

theorem getLsbD_linkWord (l : Bool) (i : Nat) : (linkWord l).getLsbD i = (decide (i = 0) && l) := by
  cases l <;> simp [linkWord]

/-- The bits that do not simply move up by one are bit 0, from Link, and bit 16, from AC bit 15 (R197). -/
theorem ringBits_rotl17 (r : Bool × Word) : ringBits (rotl17 r) = (ringBits r).rotateLeft 1 := by
  refine BitVec.eq_of_getLsbD_eq fun i hi => ?_
  rw [BitVec.getLsbD_rotateLeft_of_le (by decide)]
  simp only [getLsbD_ringBits, rotl17, BitVec.getLsbD_or, BitVec.getLsbD_shiftLeft, getLsbD_linkWord]
  obtain rfl | rfl | ⟨hpos, hlt⟩ : i = 0 ∨ i = 16 ∨ 0 < i ∧ i < 16 := by omega
  · simp
  · simp
  · simp [hlt, hi, hpos.ne', show i - 1 < 16 by omega]

/-- The bits that do not simply move down by one are bit 15, from Link, and bit 16, from AC bit 0 (R197). -/
theorem ringBits_rotr17 (r : Bool × Word) : ringBits (rotr17 r) = (ringBits r).rotateRight 1 := by
  refine BitVec.eq_of_getLsbD_eq fun i hi => ?_
  rw [BitVec.getLsbD_rotateRight_of_lt (by decide)]
  simp only [getLsbD_ringBits, rotr17, BitVec.getLsbD_or, BitVec.getLsbD_shiftLeft, BitVec.getLsbD_ushiftRight,
    getLsbD_linkWord]
  obtain rfl | rfl | hlt : i = 15 ∨ i = 16 ∨ i < 15 := by omega
  · simp
  · simp
  · simp [hlt, show i < 16 by omega, show 1 + i < 16 by omega]

theorem ringBits_rotlTimes (k : Nat) (r : Bool × Word) : ringBits (rotlTimes k r) = (ringBits r).rotateLeft k := by
  induction k generalizing r with
  | zero => exact (rotateLeft_eq_self _ rfl).symm
  | succ k ih => rw [rotlTimes, ih, ringBits_rotl17, rotateLeft_rotateLeft, Nat.add_comm]

theorem ringBits_rotrTimes (k : Nat) (r : Bool × Word) : ringBits (rotrTimes k r) = (ringBits r).rotateRight k := by
  induction k generalizing r with
  | zero => exact ((rotateRight_eq_rotateLeft _ _).trans (rotateLeft_eq_self _ rfl)).symm
  | succ k ih =>
    simp only [rotrTimes, ih, ringBits_rotr17, rotateRight_eq_rotateLeft, rotateLeft_rotateLeft]
    exact rotateLeft_congr _ (by omega)

theorem rotlTimes_eq (k : Nat) (r : Bool × Word) : rotlTimes k r = ofRingBits ((ringBits r).rotateLeft k) := by
  rw [← ringBits_rotlTimes, ofRingBits_ringBits]

theorem rotrTimes_eq (k : Nat) (r : Bool × Word) : rotrTimes k r = ofRingBits ((ringBits r).rotateRight k) := by
  rw [← ringBits_rotrTimes, ofRingBits_ringBits]

theorem rotrTimes_rotlTimes (k : Nat) (r : Bool × Word) : rotrTimes k (rotlTimes k r) = r := by
  rw [rotrTimes_eq, ringBits_rotlTimes, rotateRight_eq_rotateLeft, rotateLeft_rotateLeft,
    rotateLeft_eq_self _ (by omega), ofRingBits_ringBits]

theorem rotlTimes_rotrTimes (k : Nat) (r : Bool × Word) : rotlTimes k (rotrTimes k r) = r := by
  rw [rotlTimes_eq, ringBits_rotrTimes, rotateRight_eq_rotateLeft, rotateLeft_rotateLeft,
    rotateLeft_eq_self _ (by omega), ofRingBits_ringBits]

theorem rotlTimes_eq_rotrTimes_sub {k : Nat} (h : k ≤ 17) (r : Bool × Word) :
    rotlTimes k r = rotrTimes (17 - k) r := by
  rw [rotlTimes_eq, rotrTimes_eq, rotateRight_eq_rotateLeft]
  exact congrArg ofRingBits (rotateLeft_congr _ (by omega))

/-- Settles O21: a count field is the number of places the ring is turned. -/
theorem ralAndRarTurnTheSeventeenBitRing : Obligations.RalAndRarTurnTheSeventeenBitRing :=
  ⟨fun w hop => by simp [decodeMp, hop], fun w hop => by simp [decodeMp, hop], fun s n =>
    ⟨congrArg (Host.Outcome.next ∘ s.setLinkAc) (rotlTimes_eq (rotateCount n) (s.link, s.ac)),
      congrArg (Host.Outcome.next ∘ s.setLinkAc) (rotrTimes_eq (rotateCount n) (s.link, s.ac))⟩⟩

/-- Writing back the Link:AC that a state has leaves the state as it was. -/
theorem State.next_setLinkAc_of_eq (s : State) {r : Bool × Word} (h : r = (s.link, s.ac)) :
    (.next (s.setLinkAc r) : Host.Outcome State Fault Refusal) = .next s := by
  rw [h]; rfl

theorem rotateCount_of_pos {n : BitVec 8} (h : 1 ≤ n.toNat) : rotateCount n = n.toNat :=
  if_neg fun h0 => by rw [h0] at h; contradiction

theorem rotateCount_seventeen_sub {n : BitVec 8} (hpos : 1 ≤ n.toNat) (hle : n.toNat ≤ 16) :
    rotateCount (17 - n) = 17 - rotateCount n := by
  have hsub : (17 - n).toNat = 17 - n.toNat := BitVec.toNat_sub_of_le (BitVec.le_def.mpr (hle.trans (by decide)))
  rw [rotateCount_of_pos hpos, rotateCount_of_pos (by omega), hsub]

/-- Settles O22: in either order Link:AC comes back; 17 places left are 0 places right, and 17 right are 0 left. -/
theorem rotatesAreInverseAndOfOrderSeventeen : Obligations.RotatesAreInverseAndOfOrderSeventeen := by
  intro s n
  refine ⟨s.next_setLinkAc_of_eq (rotrTimes_rotlTimes _ _), s.next_setLinkAc_of_eq (rotlTimes_rotrTimes _ _),
    s.next_setLinkAc_of_eq (rotlTimes_eq_rotrTimes_sub (le_refl 17) _),
    s.next_setLinkAc_of_eq (rotlTimes_eq_rotrTimes_sub (Nat.zero_le 17) _).symm, fun hpos hle => ?_⟩
  have hcount : rotateCount n ≤ 17 := by rw [rotateCount_of_pos hpos]; omega
  refine congrArg (Host.Outcome.next ∘ s.setLinkAc) ?_
  rw [rotateCount_seventeen_sub hpos hle]
  exact rotlTimes_eq_rotrTimes_sub hcount (s.link, s.ac)

end Sys2Proof.Machine
end

section
/-! PROOF. The IOT devices (R97, R211, R214, R218, R222, R225, R229): the device code alone selects the instruction, and its
function bits, taken one after the other, come to one record update. -/

namespace Sys2Proof.Machine

variable {w : Word}

/-- The ten bits 0x3A0 from bit 6 up are op nibble 0xE and device code 0x20, whatever the function bits (R94, R97). -/
theorem decodeMp_iotCyc (h : field w 6 10 = 0x3A0#10) : decodeMp w = some .iotCyc := by
  have hfields : field w 12 4 = 0xE#4 ∧ field w 6 6 = 0x20#6 := by
    simp only [← BitVec.toNat_inj, toNat_field, BitVec.reduceToNat] at h ⊢
    omega
  obtain ⟨hop, hdev⟩ := hfields
  simp [decodeMp, hop, decodeIot, hdev]

/-- AC modulo 128 is a seven-bit code, and the console takes it from 32 up and at newline (R222). -/
theorem printable_charCode_iff (v : Word) :
    printable (charCode v) = true ↔ 32 ≤ v.toNat % 128 ∨ v.toNat % 128 = 0x0A := by
  have hcode : (charCode v).toNat = v.toNat % 128 := BitVec.toNat_setWidth 7 v
  simp [printable, ← BitVec.toNat_inj, hcode]

/-- Settles O25: the code is appended exactly when the console takes it. -/
theorem consoleOutputAppendsPrintableCodes : Obligations.ConsoleOutputAppendsPrintableCodes := by
  refine ⟨fun w hop hdev => by simp [decodeMp, hop, decodeIot, hdev], fun s => ?_⟩
  simp only [← printable_charCode_iff]
  rfl

/-- Settles O23: Keyboard is nonzero after the clear only if it was before and is not cleared. -/
theorem keyboardFunctionBitsActInOrder : Obligations.KeyboardFunctionBitsActInOrder := by
  refine ⟨fun w hop hdev => by simp [decodeMp, hop, decodeIot, hdev], fun s read clear test => ?_⟩
  simp [exec, execIotKbd_eq, and_assoc]

/-- Settles O24: the last of start and stop decides DP.Halt. -/
theorem displayControlTogglesStartsStops : Obligations.DisplayControlTogglesStartsStops := by
  refine ⟨fun w hop hdev => by simp [decodeMp, hop, decodeIot, hdev], fun s toggle start stop =>
    ⟨_, execIotDpc_eq toggle start stop s, rfl, Bool.xor_comm .., by rw [Bool.and_comm], ?_⟩⟩
  cases start with
  | false => rfl
  | true => exact BitVec.toNat_setWidth 12 s.ac

/-- Settles O26: the read of LightPenY comes last. -/
theorem lightPenReadsAndTests : Obligations.LightPenReadsAndTests := by
  refine ⟨fun w hop hdev => by simp [decodeMp, hop, decodeIot, hdev], fun s readX readY test => ?_⟩
  simp [exec, execIotLpn_eq]

/-- Settles O27: the state that the instruction is given has its own fetch counted. -/
theorem cycleCounterReadsItsOwnFetch : Obligations.CycleCounterReadsItsOwnFetch :=
  ⟨fun s => ⟨_, rfl, rfl, BitVec.toNat_ofNat s.cyc 16⟩, fun s hhalt hword =>
    ⟨_, mpStep_of_decode s .iotCyc hhalt (decodeMp_iotCyc hword), rfl, BitVec.toNat_ofNat (s.cyc + 1) 16⟩⟩

end Sys2Proof.Machine
end

section
/-! PROOF. The words of the operate group by name (R244, R245, R255): HLT, and the useful combinations of micro-ops. -/

namespace Sys2Proof.Machine

/-- From 0xF800 up the op nibble is 0xF and bit 11 is set, whatever bits 10 to 0 hold (R96, R244). -/
theorem decodeMp_hlt {w : Word} (h : 0xF800 ≤ w.toNat) : decodeMp w = some .hlt := by
  have hw := w.isLt
  have hop : (field w 12 4).toNat = 0xF := by rw [toNat_field]; omega
  have h11 : (field w 11 1).toNat = 1 := by rw [toNat_field]; omega
  have hhlt : bit w 11 = true := by simpa [toNat_field_one] using h11
  simp [decodeMp, hop, decodeOpr, hhlt]

/-- Settles O28: the Halt that HLT sets closes the gate of the MP's steps, and both host operations write it anew. -/
theorem hltHaltsAndSuppressesTheRest : Obligations.HltHaltsAndSuppressesTheRest :=
  ⟨fun _ => decodeMp_hlt, fun s => ⟨s.haltMp, rfl, rfl, mpStep_of_halt s.haltMp_halt, fun _ => ⟨rfl, rfl⟩⟩⟩

/-- The sum with one carries only out of 0xFFFF (R250, decision D6). -/
theorem addCarry_one (a : Word) : addCarry a 1 = (decide (a = 0xFFFF#16), a + 1) := by
  have hsum : ringValue (addCarry a 1) = a.toNat + 1 := ringValue_addCarry a 1
  have ha := a.isLt
  refine Prod.ext ?_ (BitVec.eq_of_toNat_eq ?_)
  · have hcarry : (addCarry a 1).1.toNat = (a.toNat + 1) / 65536 := by rw [← ringValue_div, hsum]
    rw [Bool.eq_iff_iff, ← Bool.toNat_eq_one, hcarry, decide_eq_true_iff, ← BitVec.toNat_inj, BitVec.toNat_ofNat]
    omega
  · exact (ringValue_mod (addCarry a 1)).symm.trans (congrArg (· % 65536) hsum)

section
/-! The micro-ops that compute, each as one record update, and the runs of them that R255 names by their joint effect. -/

variable (s : State)

theorem State.iac_eq : s.iac = { s with ac := s.ac + 1, link := decide (s.ac = 0xFFFF#16) } :=
  congrArg s.setLinkAc (addCarry_one s.ac)

/-- The complement plus one is the negation, and only the complement of 0 is 0xFFFF (R248, R250). -/
theorem State.iac_cma : s.cma.iac = { s with ac := -s.ac, link := decide (s.ac = 0) } := by
  have hcarry : ~~~s.ac = 0xFFFF#16 ↔ s.ac = 0 := BitVec.not_eq_comm.trans (Eq.congr_right (by decide))
  simp [State.iac_eq, State.cma, BitVec.neg_eq_not_add, hcarry]

theorem State.cma_cla : s.cla.cma = { s with ac := 0xFFFF#16 } := by
  simp [State.cla, State.cma]

theorem State.iac_cla : s.cla.iac = { s with ac := 1#16, link := false } := by
  simp [State.iac_eq, State.cla]

theorem State.iac_cma_cla : s.cla.cma.iac = { s with ac := 0#16, link := true } := by
  simp [State.iac_cma, State.cla]

/-- With Link clear, the bit that comes in at the right is 0 (R197). -/
theorem State.rl1_cll : s.cll.rl1 = { s with ac := s.ac <<< 1, link := s.ac.getLsbD 15 } := by
  have hin : linkWord false = 0#16 := rfl
  simp [State.cll, State.rl1, State.setLinkAc, rotl17, hin]

/-- With Link clear, the bit that comes in at the left is 0 (R197). -/
theorem State.rr1_cll : s.cll.rr1 = { s with ac := s.ac >>> 1, link := s.ac.getLsbD 0 } := by
  have hin : linkWord false = 0#16 := rfl
  simp [State.cll, State.rr1, State.setLinkAc, rotr17, hin]

/-- The two rotates by one place undo each other (R252, R253). -/
theorem State.rr1_rl1 : s.rl1.rr1 = s :=
  congrArg s.setLinkAc (rotrTimes_rotlTimes 1 (s.link, s.ac))

end

/-- What a word does, from what is known of the state in which its instruction leaves the machine. -/
theorem exists_exec_of_decodeMp {w : Word} {i : Instr} {s t t' : State} (hd : decodeMp w = some i)
    (hx : exec i s = .next t) (ht : t = t') : ∃ i, decodeMp w = some i ∧ exec i s = .next t' :=
  ⟨i, hd, ht ▸ hx⟩

/-- Settles O30: a word runs the micro-ops that its bits select, and each run has its law. With all nine, CMA finds AC and Link
cleared, IAC carries, XDA moves the 0 to DP.AC, and the rotates undo each other. -/
theorem usefulOprCombinations : Obligations.UsefulOprCombinations := by
  intro s
  have hall : s.cla.cll.cma.cml.iac.stl.xda = { s with ac := s.dpAc, dpAc := 0#16, link := true } := by
    simp [State.iac_eq, State.cla, State.cll, State.cma, State.cml, State.stl, State.xda]
  exact ⟨exists_exec_of_decodeMp rfl rfl rfl,
    exists_exec_of_decodeMp rfl rfl s.cma_cla,
    exists_exec_of_decodeMp rfl rfl s.iac_cla,
    exists_exec_of_decodeMp rfl rfl s.iac_cma_cla,
    exists_exec_of_decodeMp rfl rfl s.iac_cma,
    exists_exec_of_decodeMp rfl rfl s.cll.iac_cma,
    exists_exec_of_decodeMp rfl rfl rfl,
    exists_exec_of_decodeMp rfl rfl s.rl1_cll,
    exists_exec_of_decodeMp rfl rfl s.rr1_cll,
    exists_exec_of_decodeMp rfl rfl rfl,
    exists_exec_of_decodeMp rfl rfl ((State.rr1_rl1 _).trans hall),
    decodeMp_hlt (by decide)⟩

end Sys2Proof.Machine
end

section
/-! PROOF. The call, the returns and the halts of the DP (R277 to R281), and the depth of its stack (R284). -/

namespace Sys2Proof.Machine

variable {s t : State} {i : Instr}

theorem exec_djms_of_full (s : State) (a : Addr) (h : ¬ s.sp.val < 16) :
    exec (.djms a) s = .next { s with dpPc := a } := by
  simp only [exec, execDjms, State.push_of_full s s.dpPc h]

/-- Settles O31: a call either finds room or finds the stack full. -/
theorem djmsPushesIfRoomAndAlwaysJumps : Obligations.DjmsPushesIfRoomAndAlwaysJumps := by
  refine ⟨fun w hop => by simp [decodeDp, hop], fun s a => ?_⟩
  by_cases hroom : s.sp.val < 16
  · exact ⟨_, exec_djms_of_room s a hroom, rfl, fun _ => ⟨rfl, rfl⟩, fun hfull => absurd hfull (Nat.ne_of_lt hroom)⟩
  · exact ⟨_, exec_djms_of_full s a hroom, rfl, fun h => absurd h hroom, fun _ => ⟨rfl, rfl⟩⟩

/-- Settles O32: both returns are the one operation `ret()`. -/
theorem returnsPopOrHalt : Obligations.ReturnsPopOrHalt := by
  refine ⟨fun w hop => by simp [decodeDp, hop], fun w hop h11 => by simp [decodeDp, hop, h11],
    fun s i hi => ⟨_, exec_return hi s, fun hentry => ?_, s.ret_of_empty⟩⟩
  rw [s.ret_of_entry hentry]
  exact ⟨rfl, Nat.sub_add_cancel hentry⟩

/-- From 0x8000 to 0x87FF the op nibble is 0x8 and bit 11 is clear (R280). -/
theorem decodeDp_dhlt8 {w : Word} (hlo : 0x8000 ≤ w.toNat) (hhi : w.toNat ≤ 0x87FF) : decodeDp w = some .dhlt8 := by
  have hop : (field w 12 4).toNat = 0x8 := by rw [toNat_field]; omega
  have h11 : (field w 11 1).toNat = 0 := by rw [toNat_field]; omega
  have hclear : bit w 11 = false := by simpa [toNat_field_one] using h11
  simp [decodeDp, hop, hclear]

/-- From 0xF000 up the op nibble is 0xF (R281). -/
theorem decodeDp_dhlt {w : Word} (h : 0xF000 ≤ w.toNat) : decodeDp w = some .dhlt := by
  have hw := w.isLt
  have hop : (field w 12 4).toNat = 0xF := by rw [toNat_field]; omega
  simp [decodeDp, hop]

/-- Settles O33: the word ranges select the two halts, and each is one assignment. -/
theorem dpHaltsSetDpHaltAlone : Obligations.DpHaltsSetDpHaltAlone :=
  ⟨fun _ => decodeDp_dhlt8, fun _ => decodeDp_dhlt, fun _ => ⟨rfl, rfl⟩⟩

theorem execAll_cons {is : List Instr} (h : exec i s = .next t) : execAll (i :: is) s = execAll is t := by
  simp only [execAll, h]

/-- Calls deepen the stack by one each until it holds sixteen entries, and none of them halts the DP (R273, R277). -/
theorem exists_execAll_calls (targets : List Addr) (s : State) : ∃ t, execAll (targets.map .djms) s = .next t ∧
    t.dpHalt = s.dpHalt ∧ t.sp.val = min 16 (s.sp.val + targets.length) := by
  induction targets generalizing s with
  | nil => exact ⟨s, rfl, rfl, (Nat.min_eq_right s.sp.is_le).symm⟩
  | cons a targets ih =>
    obtain ⟨u, hcall, hframe, hroom, hfull⟩ := djmsPushesIfRoomAndAlwaysJumps.2 s a
    obtain ⟨t, hrun, hhalt, hsp⟩ := ih u
    have hle := s.sp.is_le
    have hu : u.sp.val = min 16 (s.sp.val + 1) := by
      by_cases h : s.sp.val < 16
      · rw [(hroom h).1]; omega
      · rw [(hfull (by omega)).1]; omega
    refine ⟨t, (execAll_cons hcall).trans hrun, by rw [hhalt, hframe], ?_⟩
    rw [hsp, hu, List.length_cons]
    omega

/-- Returns within the depth of the stack take one entry each, and none of them halts the DP (R274). -/
theorem exists_execAll_returns {returns : List Instr} (hret : ∀ i ∈ returns, i = .dret ∨ i = .drtn8) {s : State}
    (hdepth : returns.length ≤ s.sp.val) : ∃ t, execAll returns s = .next t ∧
    t.dpHalt = s.dpHalt ∧ t.sp.val + returns.length = s.sp.val := by
  induction returns generalizing s with
  | nil => exact ⟨s, rfl, rfl, rfl⟩
  | cons i returns ih =>
    rw [List.length_cons] at hdepth ⊢
    obtain ⟨u, hx, hpop, -⟩ := returnsPopOrHalt.2.2 s i (hret i List.mem_cons_self)
    obtain ⟨hframe, hu⟩ := hpop (by omega)
    obtain ⟨t, hrun, hhalt, hsp⟩ := ih (fun j hj => hret j (List.mem_cons_of_mem i hj)) (s := u) (by omega)
    exact ⟨t, (execAll_cons hx).trans hrun, by rw [hhalt, hframe], by omega⟩

/-- Settles O34: the seventeenth call finds the stack full, so sixteen returns empty it and the seventeenth halts. -/
theorem seventeenCallsAndReturnsHaltTheDp : Obligations.SeventeenCallsAndReturnsHaltTheDp := by
  intro s targets returns last hempty hrunning htargets hreturns hret
  obtain ⟨t, hcalls, hcallsHalt, hdeep⟩ := exists_execAll_calls targets s
  have hfull : t.sp.val = 16 := by rw [hdeep, hempty, htargets]; rfl
  obtain ⟨u, hrets, hretsHalt, hsp⟩ := exists_execAll_returns (fun i hi => hret i (List.mem_cons_of_mem last hi))
    (s := t) (by omega)
  have hback : u.sp = 0 := Fin.ext (show u.sp.val = 0 by omega)
  refine ⟨u, u.ret, (execAll_append hcalls).trans hrets, by rw [hretsHalt, hcallsHalt, hrunning], hback,
    exec_return (hret last List.mem_cons_self) u, ?_⟩
  rw [u.ret_of_empty hback]

end Sys2Proof.Machine
end

section
/-! PROOF. The bounded append to the DisplayList (R322, R323, R325), and the three instructions that use it (R306 to R308,
R314). -/

namespace Sys2Proof.Machine

variable {s t : State} {i : Instr}

/-- Settles O43, by induction on the entries: an append either has room or finds the first 32768 already in the list. -/
theorem displayListKeepsTheFirst32768 : Obligations.DisplayListKeepsTheFirst32768 := by
  intro s entries
  induction entries generalizing s with
  | nil =>
    intro hcap
    rw [List.append_nil, List.take_of_length_le hcap]
    rfl
  | cons e entries ih =>
    intro hcap
    rw [List.foldl_cons, ih _ (s.dlAppend_length_le e hcap)]
    by_cases hroom : s.dl.length < 32768
    · rw [s.dlAppend_of_room e hroom, List.append_assoc]
      rfl
    · rw [s.dlAppend_of_full e hroom, List.take_append_of_le_length (Nat.le_of_not_lt hroom),
        List.take_append_of_le_length (Nat.le_of_not_lt hroom)]

/-- The three drawing instructions leave the list as one bounded append leaves it. -/
theorem exec_dl_of_appendsEntry (h : exec i s = .next t) (hi : appendsEntry i = true) :
    ∃ e, t.dl = (s.dlAppend e).dl := by
  cases i with
  | dsvec | dlvec | dpt => cases h; exact ⟨_, rfl⟩
  | _ => cases hi

/-- Settles O44: the list is either not written or appended to within its capacity. -/
theorem onlyThreeInstructionsAppendEntries : Obligations.OnlyThreeInstructionsAppendEntries := by
  intro i s t h
  cases hi : appendsEntry i with
  | false => exact ⟨fun _ => exec_dl h hi, nofun, fun _ => exec_dl h hi⟩
  | true =>
    obtain ⟨e, he⟩ := exec_dl_of_appendsEntry h hi
    refine ⟨nofun, fun _ hroom => ⟨e, ?_⟩, fun hfull => ?_⟩
    · rw [he, s.dlAppend_of_room e hroom]
    · rw [he, s.dlAppend_of_full e (Nat.not_lt.mpr hfull)]

/-- The common vector function writes the beam position and the list alone (R314). -/
theorem State.vector_frame (s : State) (sx : Bool) (dx : BitVec 5) (sy : Bool) (dy : BitVec 5) (m : Nat) :
    s.vector sx dx sy dy m = { s with
      x := (s.vector sx dx sy dy m).x, y := (s.vector sx dx sy dy m).y, dl := (s.vector sx dx sy dy m).dl } := by
  simp only [State.vector, State.dlAppend_eq]

/-- A displaced coordinate in plain numbers: sign times magnitude times step, modulo 1024 (R314, decision D23). -/
theorem toNat_moveBy_displacement (c : Coord) (neg : Bool) (d : BitVec 5) (m : Nat) :
    ((moveBy c (displacement neg d m)).toNat : Int) =
      ((c.toNat : Int) + (if neg then -1 else 1) * ((d.toNat : Int) * m)) % 1024 := by
  have hdisp : displacement neg d m = (if neg then -1 else 1) * ((d.toNat : Int) * m) := by
    cases neg <;> simp [displacement]
  rw [moveBy, hdisp, BitVec.toNat_ofInt]
  exact Int.toNat_of_nonneg (Int.emod_nonneg _ (by decide))

/-- Settles O40: both instructions are the one vector function, with their own step. -/
theorem vectorsDrawFromOldToNewPosition : Obligations.VectorsDrawFromOldToNewPosition := by
  refine ⟨fun w hop => by simp [decodeDp, hop], fun w hop => by simp [decodeDp, hop], ?_⟩
  intro s sx dx sy dy i m hi
  obtain ⟨k, hx, rfl⟩ : ∃ k : Nat, exec i s = .next (s.vector sx dx sy dy k) ∧ m = k := by
    rcases hi with ⟨rfl, rfl⟩ | ⟨rfl, rfl⟩
    · exact ⟨1, rfl, rfl⟩
    · exact ⟨8, rfl, rfl⟩
  exact ⟨_, hx, s.vector_frame sx dx sy dy k, toNat_moveBy_displacement s.x sx dx k,
    toNat_moveBy_displacement s.y sy dy k, s.dlAppend_dl _⟩

/-- From 0x7800 to 0x7FFF the op nibble is 0x7 and bit 11 is set (R308). -/
theorem decodeDp_dpt {w : Word} (hlo : 0x7800 ≤ w.toNat) (hhi : w.toNat ≤ 0x7FFF) : decodeDp w = some .dpt := by
  have hop : (field w 12 4).toNat = 0x7 := by rw [toNat_field]; omega
  have h11 : (field w 11 1).toNat = 1 := by rw [toNat_field]; omega
  have hset : bit w 11 = true := by simpa [toNat_field_one] using h11
  simp [decodeDp, hop, decodeDpSeven, hset]

/-- Settles O41: DPT is one bounded append. -/
theorem pointIsAppendedAtTheBeam : Obligations.PointIsAppendedAtTheBeam :=
  ⟨fun _ => decodeDp_dpt, fun s => congrArg Host.Outcome.next (s.dlAppend_eq _)⟩

end Sys2Proof.Machine
end

section
/-! PROOF. The DP instructions that set a parameter or the beam position, or do nothing (R300 to R305, R309 to R313). -/

namespace Sys2Proof.Machine

variable {w : Word}

theorem decodeDp_of_lt (h : w.toNat < 0x1000) : decodeDp w = some (decodeDpZero w) := by
  have hop : (field w 12 4).toNat = 0x0 := by rw [toNat_field]; omega
  simp [decodeDp, hop]

/-- The pattern of DINTP is a range of words (R300, decision D3). -/
theorem field_eq_dintp_iff : field w 3 13 = 0x1C0#13 ↔ 0x0E00 ≤ w.toNat ∧ w.toNat ≤ 0x0E07 := by
  have hw := w.isLt
  simp only [← BitVec.toNat_inj, toNat_field, BitVec.reduceToNat]
  omega

/-- The five bits 0x0E from bit 11 up are op nibble 0x7 with bit 11 clear, where bit 4 decides (R309, R310). -/
theorem decodeDp_of_field_eleven (h : field w 11 5 = 0x0E#5) :
    decodeDp w = some (if bit w 4 then .dint7 (field w 0 3) else .dnop7) := by
  have hfields : (field w 12 4).toNat = 0x7 ∧ (field w 11 1).toNat = 0 := by
    simp only [← BitVec.toNat_inj, toNat_field, BitVec.reduceToNat] at h ⊢
    omega
  obtain ⟨hop, h11⟩ := hfields
  have hclear : bit w 11 = false := by simpa [toNat_field_one] using h11
  simp [decodeDp, hop, decodeDpSeven, hclear]

/-- Settles O36: the words of each row, and each meaning is one assignment. -/
theorem intensityAndScaleAreStoredAlone : Obligations.IntensityAndScaleAreStoredAlone := by
  refine ⟨fun w hlo hhi => ?_, fun w h11 h4 => ?_, fun w hop => by simp [decodeDp, hop],
    fun w hop => by simp [decodeDp, hop], fun _ _ _ => ⟨rfl, rfl, rfl, rfl⟩, rfl, rfl, rfl, rfl⟩
  · rw [decodeDp_of_lt (by omega), decodeDpZero, if_pos (field_eq_dintp_iff.mpr ⟨hlo, hhi⟩)]
  · rw [decodeDp_of_field_eleven h11, if_pos h4]

/-- Settles O37: the op-0x0 words outside the pattern's range, and the op-0x7 words with both selecting bits clear. -/
theorem dpNoOpsDoNothing : Obligations.DpNoOpsDoNothing := by
  refine ⟨fun w hw => ?_, fun w h11 h4 => ?_, fun _ _ => ⟨rfl, rfl⟩⟩
  · have hne : ¬ field w 3 13 = 0x1C0#13 := by rw [field_eq_dintp_iff]; omega
    rw [decodeDp_of_lt (by omega), decodeDpZero, if_neg hne]
  · rw [decodeDp_of_field_eleven h11, h4, if_neg Bool.false_ne_true]

/-- The ten bits that a coordinate keeps of an address are its remainder modulo 1024 (R302, decision D2). -/
theorem coordOf_eq (addr : Addr) : coordOf addr = BitVec.ofNat 10 (addr.toNat % 1024) := by
  rw [coordOf, ← BitVec.toNat_inj, BitVec.toNat_setWidth, BitVec.toNat_ofNat, Nat.mod_mod]

/-- Settles O38: each load is one assignment of the reduced address. -/
theorem absoluteLoadsReduceModulo1024 : Obligations.AbsoluteLoadsReduceModulo1024 := by
  refine ⟨fun w hop => by simp [decodeDp, hop], fun w hop => by simp [decodeDp, hop],
    fun w hop => by simp [decodeDp, hop], fun w hop => by simp [decodeDp, hop], fun s addr => ?_⟩
  rw [← coordOf_eq]
  exact ⟨rfl, rfl, rfl, rfl⟩

/-- Settles O39: a five-bit field is its own value as a coordinate. -/
theorem dsxySetsSmallCoordinates : Obligations.DsxySetsSmallCoordinates := by
  refine ⟨fun w hop => by simp [decodeDp, hop], fun s x y => ?_⟩
  rw [BitVec.ofNat_toNat, BitVec.ofNat_toNat]
  rfl

end Sys2Proof.Machine
end

section
/-! PROOF. The brightness of an entry (R320), and the entry as its reader sees it (R321). -/

namespace Sys2Proof.Machine

theorem bright_eq_max (l : Level) : bright l = max ((l.toNat : Rat) / 7) (1 / 20) := rfl

/-- The floor is reached at Intensity 0 alone: 1/7 is already above 1/20 (R320). -/
theorem bright_of_pos {l : Level} (h : 0 < l.toNat) : bright l = (l.toNat : Rat) / 7 := by
  have hl : (1 : Rat) ≤ l.toNat := by exact_mod_cast h
  rw [bright_eq_max, max_eq_left]
  linarith

theorem bright_bounds (l : Level) : 1 / 20 ≤ bright l ∧ bright l ≤ 1 := by
  have hl : (l.toNat : Rat) ≤ 7 := by exact_mod_cast Nat.le_of_lt_succ l.isLt
  rw [bright_eq_max]
  refine ⟨le_max_right _ _, max_le ?_ ?_⟩
  · linarith
  · norm_num

theorem bright_zero : bright 0 = 1 / 20 := by
  simp [bright_eq_max]

theorem bright_seven : bright 7 = 1 := by
  simp [bright_of_pos]

/-- Settles O42: only the floor makes the table differ from sevenths, and reading the list maps over its entries. -/
theorem brightnessTable : Obligations.BrightnessTable := by
  refine ⟨bright_zero, bright_of_pos (by decide), bright_of_pos (by decide), bright_of_pos (by decide),
    bright_of_pos (by decide), bright_of_pos (by decide), bright_of_pos (by decide), bright_seven, bright_bounds,
    fun s x1 y1 x2 y2 l => ?_⟩
  rw [State.readDisplayList, List.map_append]
  rfl

end Sys2Proof.Machine
end

section
/-! PROOF. The operations of the driver and the host: what the host's writes keep (R324, R352 to R354), totality (R340),
and a list of pending operations performed in order (R351, R358). -/

namespace Sys2Proof.Machine

variable {s t : State} {op : DriverOp}

/-- An address is the host's number modulo 4096, so two numbers name one word when they agree modulo 4096 (R354). -/
theorem ofNat_addr_eq_iff (a b : Nat) : BitVec.ofNat 12 b = BitVec.ofNat 12 a ↔ b % 4096 = a % 4096 := by
  rw [← BitVec.toNat_inj, BitVec.toNat_ofNat, BitVec.toNat_ofNat]

theorem State.peek_poke (s : State) (a b v : Nat) : (s.poke a v).peek b =
    if b % 4096 = a % 4096 then BitVec.ofNat 16 v else s.peek b := by
  rw [State.peek, State.poke, State.readMem_writeMem]
  simp only [ofNat_addr_eq_iff, State.peek]

theorem ofNat_word_mod (v : Nat) : BitVec.ofNat 16 (v % 65536) = BitVec.ofNat 16 v := by
  rw [← BitVec.toNat_inj, BitVec.toNat_ofNat, BitVec.toNat_ofNat, Nat.mod_mod]

/-- Settles O4: the host's numbers are reduced as they become words, and a poke is one word written. -/
theorem hostOperationsMaskAndTouchOnlyTheirRegister : Obligations.HostOperationsMaskAndTouchOnlyTheirRegister := by
  intro s a b v x y hit
  simp only [ofNat_word_mod]
  exact ⟨rfl, rfl, rfl, rfl, rfl, rfl, s.poke a v, rfl, rfl, s.peek_poke a b v⟩

theorem exists_mpStep_next (s : State) : ∃ t, mpStep s = .next t := by
  cases hhalt : s.halt with
  | true => exact ⟨s, mpStep_of_halt hhalt⟩
  | false =>
    obtain ⟨i, hd⟩ := exists_decodeMp (s.readMem s.pc)
    rw [mpStep_of_decode s i hhalt hd]
    exact exists_exec_next i s.mpFetch

theorem exists_dpStep_next (s : State) : ∃ t, dpStep s = .next t := by
  by_cases hgate : s.dpEnabled = false ∨ s.dpHalt = true
  · exact ⟨s, dpStep_of_closed hgate⟩
  · obtain ⟨hen, hhalt⟩ : s.dpEnabled = true ∧ s.dpHalt = false := by simpa using hgate
    obtain ⟨i, hd⟩ := exists_decodeDp (s.readMem s.dpPc)
    rw [dpStep_of_decode s i hen hhalt hd]
    exact exists_exec_next i s.dpFetch

theorem exists_perform_next (op : DriverOp) (s : State) : ∃ t, perform op s = .next t := by
  cases op with
  | mpStep => exact exists_mpStep_next s
  | dpStep => exact exists_dpStep_next s
  | reset | powerOn | dlClear | setKeyboard | setLightPen | peek | poke | readDisplayList | readConsole =>
    exact ⟨_, rfl⟩

/-- Settles O50: a step of the machine is the next operation, performed. -/
theorem everyStepAnswersANextState : Obligations.EveryStepAnswersANextState :=
  ⟨exists_perform_next, fun s => exists_perform_next (nextCall s).1 (nextCall s).2⟩

theorem performAll_cons {ops : List DriverOp} (h : perform op s = .next t) :
    performAll (op :: ops) s = performAll ops t := by
  rw [performAll, h]

theorem core_run_succ {M : Host.Core} {s t : M.State} (h : M.step s = .next t) (k : Nat) :
    M.run (k + 1) s = M.run k t := by
  rw [Host.Core.run, h]

/-- No operation reads or writes the pending operations: they are no part of what either processor reaches. -/
theorem perform_with_calls (h : perform op s = .next t) (cs : List DriverOp) :
    perform op { s with calls := cs } = .next { t with calls := cs } := by
  cases op with
  | mpStep =>
    have hover : t = t.mpPartOver s := Host.Outcome.next.inj (h.symm.trans (mpStep_mpPartOver h s))
    rw [hover]
    exact mpStep_mpPartOver h { s with calls := cs }
  | dpStep =>
    have hover : t = t.dpPartOver s := Host.Outcome.next.inj (h.symm.trans (dpStep_dpPartOver h s))
    rw [hover]
    exact dpStep_dpPartOver h { s with calls := cs }
  | reset | powerOn | dlClear | setKeyboard | setLightPen | peek | poke | readDisplayList | readConsole =>
    cases h; rfl

/-- Settles O51, by induction on the list: a step takes the first operation off, and what that operation does is
the same whatever is pending behind it. -/
theorem anyScheduleOfOperationsRunsInOrder : Obligations.AnyScheduleOfOperationsRunsInOrder := by
  intro ops rest
  induction ops with
  | nil => exact fun s => ⟨_, rfl, rfl, rfl⟩
  | cons op ops ih =>
    intro s
    obtain ⟨u, hu⟩ := exists_perform_next op s
    obtain ⟨t, hperform, hrun, hcalls⟩ := ih u
    have hstep : step { s with calls := op :: (ops ++ rest) } = .next { u with calls := ops ++ rest } :=
      (step_of_pending rfl).trans (perform_with_calls hu (ops ++ rest))
    exact ⟨t, (performAll_cons (perform_with_calls hu rest)).trans hperform,
      (core_run_succ hstep ops.length).trans hrun, hcalls⟩

end Sys2Proof.Machine
end

section
/-! PROOF. `reset()`, `powerOn()` and the state of a new machine (R380 to R385). -/

namespace Sys2Proof.Machine

variable (r : ResetRecord) (s t : State)

/-- What the MP starts with does not depend on the state before (R380). -/
theorem State.resetOp_sameMpRegs : (s.resetOp r).sameMpRegs (t.resetOp r) :=
  ⟨rfl, rfl, rfl, rfl, rfl, rfl, rfl⟩

theorem State.resetOp_sameDpControl : (s.resetOp r).sameDpControl (t.resetOp r) :=
  ⟨rfl, rfl, rfl, rfl⟩

/-- The input registers belong to the host, and the core never clears the Console (R380, R381). -/
theorem State.resetOp_sameHostSide : (s.resetOp r).sameHostSide s :=
  ⟨rfl, rfl, rfl, rfl, rfl⟩

@[simp] theorem State.resetOp_resetOp : (s.resetOp r).resetOp r = s.resetOp r := rfl

/-- The two flags that `powerOn()` writes after `reset()` are registers that `reset()` writes anew (R383). -/
@[simp] theorem State.resetOp_powerOnOp : (s.powerOnOp r).resetOp r = s.resetOp r := rfl

theorem State.powerOnOp_eq : s.powerOnOp r = { s.resetOp r with run := true, halt := false } := rfl

theorem State.powerOnOp_powerOnOp : (s.powerOnOp r).powerOnOp r = s.powerOnOp r := by
  rw [State.powerOnOp_eq r (s.powerOnOp r), State.resetOp_powerOnOp, ← State.powerOnOp_eq]

/-- Settles O1: each register is one field of the one assignment, and no such field names the state before. -/
theorem resetReinitialisesAndKeepsMemory : Obligations.ResetReinitialisesAndKeepsMemory :=
  ⟨fun _ => rfl, fun r s t =>
    ⟨rfl, rfl, rfl, rfl, rfl, rfl, rfl, rfl, rfl, rfl, rfl, rfl, rfl, rfl, rfl, rfl,
      s.resetOp_sameMpRegs r t, s.resetOp_sameDpControl r t,
      rfl, rfl, rfl, rfl, rfl, rfl, s.resetOp_sameHostSide r⟩⟩

/-- Settles O2: a `reset()` writes every register that the `reset()` or `powerOn()` before it wrote. -/
theorem powerOnIsResetThenRunAndBothAreIdempotent : Obligations.PowerOnIsResetThenRunAndBothAreIdempotent :=
  ⟨fun _ => rfl, fun r s => ⟨s.powerOnOp_eq r, s.resetOp_resetOp r, s.powerOnOp_powerOnOp r, rfl⟩⟩

/-- A new machine already holds what `powerOn()` would give it (R385, decision D12). -/
theorem State.reset_powerOnOp : State.reset.powerOnOp Config.resetValues = State.reset := rfl

/-- Settles O3: the other clauses are fields of the literal state. -/
theorem resetStateIsPowerOnOfNewMachine : Obligations.ResetStateIsPowerOnOfNewMachine :=
  ⟨State.reset_powerOnOp, rfl, rfl, rfl, rfl, rfl, rfl, rfl, rfl, rfl, rfl, rfl⟩

end Sys2Proof.Machine
end
